-- ==== Sys2Proof/Word.lean ====
section
/-! DEFINITION. The word types of the block: the 32-bit bus word, the frame byte and the nibble (spec/20_memory.md R71, spec/10_state.md R37, spec/00_scope.md R12). -/

namespace Sys2Proof

/-- One bus word: every access is 32 bits wide (R71). -/
abbrev Word := BitVec 32

/-- One byte of the frame or of the bit buffer. -/
abbrev Byte := BitVec 8

/-- Four bits: a frame nibble, or a command code. -/
abbrev Nibble := BitVec 4

end Sys2Proof
end

