-- ==== Sys2Proof/Syntax.lean ====
section
/-! DEFINITION. The instructions: one constructor per row of spec/opcode_table.json, the decoded 32-bit word of a CTRL write (spec/30_encoding.md R100, R104). -/

namespace Sys2Proof

/-- One CTRL write, decoded. Every row carries the IE and VERBOSE bits it stores; the rows with GO = 0 carry the CMD code
they store, and RESERVED its code 0x8..0xF. The ACK bit of a GO word and the reserved bits are ignored (R101, R106), so no
row carries them. -/
inductive Instr where
  | nop (ie verbose : Bool)
  | decode (ie verbose : Bool)
  | sync (ie verbose : Bool)
  | extract (ie verbose : Bool)
  | verify (ie verbose : Bool)
  | dispatch (ie verbose : Bool)
  | fields (ie verbose : Bool)
  | clear (ie verbose : Bool)
  | reserved (code : Nibble) (ie verbose : Bool)
  | ack (cmd : Nibble) (ie verbose : Bool)
  | setctrl (cmd : Nibble) (ie verbose : Bool)
deriving DecidableEq, Repr

end Sys2Proof
end

