-- ==== Sys2Proof/WellFormed.lean ====
section
/-! DEFINITION. Well-formed instructions: the one check the encoding asks for, RESERVED's code is 0x8..0xF (spec/30_encoding.md R104, R105). -/

namespace Sys2Proof

/-- A RESERVED command's code is one of 0x8..0xF; every other row admits every operand value. -/
def Instr.wf : Instr → Bool
  | .reserved code _ _ => code.getLsbD 3
  | .nop _ _ => true
  | .decode _ _ => true
  | .sync _ _ => true
  | .extract _ _ => true
  | .verify _ _ => true
  | .dispatch _ _ => true
  | .fields _ _ => true
  | .clear _ _ => true
  | .ack _ _ _ => true
  | .setctrl _ _ _ => true

end Sys2Proof
end

