-- ==== Sys2Proof/Decode.lean ====
section
/-! DEFINITION. The decoder of a CTRL word, total on every word (spec/30_encoding.md R100, R104), the encoder, and the opcode table's mask and match rows (spec/opcode_table.json). -/

namespace Sys2Proof

/-- The command a GO word starts: every 4-bit code selects exactly one row (R104). -/
def decodeGo (cmd : Nibble) (ie verbose : Bool) : Instr :=
  match cmd.toNat with
  | 0 => .nop ie verbose
  | 1 => .decode ie verbose
  | 2 => .sync ie verbose
  | 3 => .extract ie verbose
  | 4 => .verify ie verbose
  | 5 => .dispatch ie verbose
  | 6 => .fields ie verbose
  | 7 => .clear ie verbose
  | _ => .reserved cmd ie verbose

/-- The decoded CTRL word: CMD [3:0], GO [4], ACK [5], IE [8], VERBOSE [9]; bits [7:6] and [31:10] are ignored (R100,
R106), and so is ACK when GO = 1 (R101). -/
def decode (w : Word) : Instr :=
  let cmd := w.extractLsb' 0 4
  let ie := w.getLsbD 8
  let verbose := w.getLsbD 9
  if w.getLsbD 4 then decodeGo cmd ie verbose
  else if w.getLsbD 5 then .ack cmd ie verbose
  else .setctrl cmd ie verbose

/-- A CTRL word from its fields, the ignored bits 0 (R100). -/
def ctrlFields (cmd : Nibble) (go ack ie verbose : Bool) : Word :=
  0#22 ++ BitVec.ofBool verbose ++ BitVec.ofBool ie ++ 0#2 ++ BitVec.ofBool ack ++ BitVec.ofBool go ++ cmd

/-- The CTRL word of an instruction (R100, R104, R111). -/
def encode : Instr → Word
  | .nop ie vb => ctrlFields 0x0#4 true false ie vb
  | .decode ie vb => ctrlFields 0x1#4 true false ie vb
  | .sync ie vb => ctrlFields 0x2#4 true false ie vb
  | .extract ie vb => ctrlFields 0x3#4 true false ie vb
  | .verify ie vb => ctrlFields 0x4#4 true false ie vb
  | .dispatch ie vb => ctrlFields 0x5#4 true false ie vb
  | .fields ie vb => ctrlFields 0x6#4 true false ie vb
  | .clear ie vb => ctrlFields 0x7#4 true false ie vb
  | .reserved code ie vb => ctrlFields code true false ie vb
  | .ack cmd ie vb => ctrlFields cmd false true ie vb
  | .setctrl cmd ie vb => ctrlFields cmd false false ie vb

/-- The rows of spec/opcode_table.json in the table's order, each its (mask, match). -/
def opcodeRows : List (Word × Word) :=
  [(0x1F#32, 0x10#32), (0x1F#32, 0x11#32), (0x1F#32, 0x12#32), (0x1F#32, 0x13#32), (0x1F#32, 0x14#32), (0x1F#32, 0x15#32),
   (0x1F#32, 0x16#32), (0x1F#32, 0x17#32), (0x18#32, 0x18#32), (0x30#32, 0x20#32), (0x30#32, 0x00#32)]

/-- Whether word `w` is one of the row's words. -/
def rowMatches (w : Word) (row : Word × Word) : Bool :=
  w &&& row.1 == row.2

/-- Which row of the table, counted from 0, an instruction stands for. -/
def Instr.row : Instr → Nat
  | .nop _ _ => 0
  | .decode _ _ => 1
  | .sync _ _ => 2
  | .extract _ _ => 3
  | .verify _ _ => 4
  | .dispatch _ _ => 5
  | .fields _ _ => 6
  | .clear _ _ => 7
  | .reserved _ _ _ => 8
  | .ack _ _ _ => 9
  | .setctrl _ _ _ => 10

/-- The CTRL word whose low `nbits` bits are `w`'s and whose bits above are 0. -/
def tableWord (nbits w : Nat) : Word :=
  BitVec.ofNat 32 (w % 2 ^ nbits)

/-- The host's view of the decoder. An instruction is one 32-bit word (R108): more bits than that are no instruction
(log 22). -/
def decodeTableWord (nbits w : Nat) : Option Instr :=
  if nbits ≤ 32 then some (decode (tableWord nbits w)) else none

end Sys2Proof
end

