-- ==== Sys2Proof/Config.lean ====
section
/-! DEFINITION. What is fixed when the block is built: the LAYOUT record (spec/00_scope.md R6, R7), and the free value the spec leaves open (spec/70_reset_and_hazards.md R301). -/

namespace Sys2Proof

/-- HI is bits [7:4] of a byte and LO is bits [3:0] (R7). -/
inductive NibbleHalf where
  | hi
  | lo
deriving DecidableEq, Repr

/-- A nibble position: a pair (byte index, HI or LO) (R7). -/
structure NibblePos where
  index : Nat
  half : NibbleHalf
deriving DecidableEq, Repr

/-- How the moisture value is obtained (R7, spec/43_fields.md R209, R210). -/
inductive MoistureMode where
  | direct
  | table
deriving DecidableEq, Repr

/-- The two model variants (R13). NONE, code 0, is the absence of one. -/
inductive Variant where
  | soilPercent
  | soilStep16
deriving DecidableEq, Repr

/-- The field layout record `VL[v]` of one variant (R7). -/
structure FieldLayout where
  chan : NibblePos
  statPos : Nat
  battBit : Nat
  signBit : Nat
  t0Pos : Nat
  t1Pos : Nat
  negA : NibblePos
  negB : NibblePos
  mstPos : Nat
  mstMode : MoistureMode
deriving DecidableEq, Repr

/-- The LAYOUT parameter record (R6). `frameLen` is the spec's `L`; `typeMap` is the partial map TYPE_MAP as a list of
pairs; `percent` and `step16` are `VL[SOIL_PERCENT]` and `VL[SOIL_STEP16]`. -/
structure Layout where
  preLen : Nat
  prePat : Word
  frameLen : Nat
  capBits : Nat
  crcPos : Nat
  payStart : Nat
  payEnd : Nat
  csumPos : Nat
  idPos : Nat
  idLen : Nat
  famPos : Nat
  famVal : Byte
  typePos : Nat
  typeMap : List (Byte × Variant)
  percent : FieldLayout
  step16 : FieldLayout
deriving DecidableEq, Repr

/-- FREE VALUE (log 3): byte `b` of the bit buffer as power-up number `powerUp` left it. R301: an arbitrary value, drawn
once and kept until written; it must not be assumed zero. It has no body, so nothing can be proved of its value. -/
opaque Config.powerUpByte (powerUp b : Nat) : Byte

end Sys2Proof
end

