-- ==== Sys2Proof/Machine/Layout.lean ====
section
/-! DEFINITION. The LAYOUT record's reading, its well-formedness (spec/00_scope.md R8), the reference record of R6 and R7, and the fixed constants of R9. -/

namespace Sys2Proof.Machine

/-- `VL[v]` (R7). -/
def fieldLayout (lay : Layout) : Variant → FieldLayout
  | .soilPercent => lay.percent
  | .soilStep16 => lay.step16

/-- Every byte index of a field layout is below `L`, and its two bit numbers are in 0..7 (R8). -/
def fieldLayoutWf (len : Nat) (g : FieldLayout) : Bool :=
  [decide (g.chan.index < len), decide (g.statPos < len), decide (g.battBit ≤ 7), decide (g.signBit ≤ 7),
   decide (g.t0Pos < len), decide (g.t1Pos < len), decide (g.negA.index < len), decide (g.negB.index < len),
   decide (g.mstPos < len)].all id

/-- A LAYOUT record is well-formed when every condition of R8 holds. -/
def layoutWf (lay : Layout) : Bool :=
  [decide (1 ≤ lay.preLen), decide (lay.preLen ≤ 32), decide (1 ≤ lay.frameLen), decide (lay.frameLen ≤ 64),
   decide (lay.capBits % 32 = 0), decide (32 ≤ lay.capBits), decide (lay.capBits ≤ 8192),
   decide (lay.preLen + 8 * lay.frameLen ≤ lay.capBits),
   decide (lay.crcPos + 1 < lay.frameLen), decide (lay.payStart ≤ lay.payEnd), decide (lay.payEnd < lay.frameLen),
   decide (lay.csumPos < lay.frameLen), decide (lay.idPos + lay.idLen ≤ lay.frameLen), decide (lay.idLen ≤ 8),
   decide (lay.famPos < lay.frameLen), decide (lay.typePos < lay.frameLen),
   fieldLayoutWf lay.frameLen lay.percent, fieldLayoutWf lay.frameLen lay.step16].all id

/-- The reference field layout of R7 (marked REF there: the spec's choice, no device fact), for a moisture mode. -/
def referenceFields (mode : MoistureMode) : FieldLayout :=
  { chan := ⟨8, .lo⟩, statPos := 14, battBit := 0, signBit := 7, t0Pos := 12, t1Pos := 13,
    negA := ⟨12, .lo⟩, negB := ⟨13, .hi⟩, mstPos := 15, mstMode := mode }

/-- The default LAYOUT of R6 and R7. -/
def referenceLayout : Layout :=
  { preLen := 24, prePat := 0xAA2DD4#32, frameLen := 18, capBits := 1024, crcPos := 0, payStart := 2, payEnd := 16,
    csumPos := 17, idPos := 2, idLen := 4, famPos := 6, famVal := 0x10#8, typePos := 7,
    typeMap := [(0x01#8, .soilPercent), (0x02#8, .soilStep16)],
    percent := referenceFields .direct, step16 := referenceFields .table }

/-- The CRC polynomial (R9). -/
def crcPoly : BitVec 16 := 0x1021#16

/-- The moisture table `MTAB[0..15]` (R9, spec/43_fields.md R210). -/
def moistureTable : List Nat := [0, 7, 13, 20, 27, 33, 40, 47, 53, 60, 67, 73, 80, 87, 93, 99]

end Sys2Proof.Machine
end

