-- ==== Sys2Proof/Machine/State.lean ====
section
/-! DEFINITION. The state of the block as plain data (spec/10_state.md), the moves of its environment, the reasons a step can stop, and the state after reset (R49). -/

namespace Sys2Proof.Machine

/-- STATUS.STAGE: how far the current input has passed through the pipeline (R33). Values 6 and 7 are never produced and
have no constructor (log 9). -/
inductive Stage where
  | none
  | synced
  | extracted
  | verified
  | dispatched
  | decoded
deriving DecidableEq, Repr

/-- STATUS.RESULT: the result codes of spec/60_exceptions.md R270. Codes 12 to 15 are never produced (log 9). -/
inductive ResultCode where
  | ok
  | notFound
  | insufficientLength
  | crcMismatch
  | checksumMismatch
  | unknownFamily
  | unknownType
  | channelRange
  | moistureRange
  | sequenceError
  | illegalCommand
  | badRowlen
deriving DecidableEq, Repr

/-- STATUS.CLASS: the classes of spec/60_exceptions.md R270. Classes 6 and 7 are never produced (log 9). -/
inductive ResultClass where
  | none
  | abstain
  | abortLength
  | integrityFail
  | sanityFail
  | hostError
deriving DecidableEq, Repr

/-- The bit buffer's bytes that have been written since power-up: (buffer byte index, byte) pairs, indices strictly rising
(`Memory.wf`). An unlisted byte has not been written and holds its power-up value (R301, log 3). -/
abbrev Memory := List Host.Cell

/-- The fields a CTRL write stores (R32). GO and ACK hold nothing. -/
structure Ctrl where
  cmd : Nibble
  ie : Bool
  verbose : Bool
deriving DecidableEq, Repr

/-- What the commands write: STAGE, CRC_OK and CSUM_OK of STATUS (R33), and the result registers of R35 and R37 to R43.
It is what the per-frame clear zeroes (spec/40_sync_extract.md R125). -/
structure Results where
  stage : Stage
  crcOk : Bool
  csumOk : Bool
  syncOff : BitVec 16
  frame : List Byte
  crcCalc : BitVec 16
  crcRx : BitVec 16
  csumCalc : Byte
  csumRx : Byte
  var : Option Variant
  family : Byte
  typ : Byte
  channel : Nibble
  battOk : Bool
  sign : Bool
  temp : BitVec 16
  moist : Byte
  mraw : Byte
  id0 : Word
  id1 : Word
deriving DecidableEq, Repr

/-- What the environment can do next: the host's bus accesses (spec/20_memory.md R71) and the two checking operations of a
host program (spec/30_encoding.md R109), the place of the core's move in the one total order (spec/20_memory.md R84), and
a change of the reset input (spec/70_reset_and_hazards.md R300). -/
inductive Move where
  | write (addr data : Word)
  | read (addr : Word)
  | poll (addr mask val : Word)
  | expect (addr mask val : Word)
  | core
  | resetInput (asserted : Bool)
deriving DecidableEq, Repr

/-- The whole machine. -/
structure State where
  /-- LAYOUT, the build-time record (spec/00_scope.md R6). No step changes it (log 1). -/
  layout : Layout
  /-- The model's own field: which power-up draw the unwritten buffer bytes come from (log 3). -/
  powerUp : Nat
  /-- The level of the reset input (R300): true while asserted. -/
  inReset : Bool
  ctrl : Ctrl
  /-- STATUS.BUSY (R33, R45). -/
  busy : Bool
  /-- STATUS.DONE (R33). -/
  done : Bool
  /-- STATUS.OVR (R33). -/
  ovr : Bool
  /-- CUR, the code of the running command (R45); not meaningful while `busy` is false (log 8). -/
  cur : Nibble
  /-- STATUS.RESULT. -/
  result : ResultCode
  /-- STATUS.CLASS. -/
  cls : ResultClass
  /-- STATUS.LAST_CMD. -/
  lastCmd : Nibble
  /-- ROW_LEN.LEN (R34). -/
  rowLen : BitVec 16
  /-- BUF (R36). -/
  buf : Memory
  /-- The result registers and result flags. -/
  res : Results
  /-- The data the last MemRead returned (spec/20_memory.md R71, log 6). -/
  rdata : Word
  /-- The model's own field: the verdict of the EXPECT lines run so far (log 7). -/
  hostOk : Bool
  /-- The model's own field: the environment's moves still to come, in order (log 4). -/
  tape : List Move
deriving DecidableEq, Repr

/-- Why the machine stops with a fault: it never does. No access raises a bus error (spec/20_memory.md R73), there is no
trap (spec/60_exceptions.md R275) and no outcome is fatal (R277), so there is no constructor (log 21). Nobody raises one. -/
inductive Fault where
deriving DecidableEq, Repr

/-- Why the model gives a step no meaning. -/
inductive Refusal where
  /-- Raised by `exec` for a row of the opcode table that has no meaning yet; safe. No arm raises it. -/
  | notModelled (mnemonic : String)
  /-- Raised by `step` when LAYOUT breaks spec/00_scope.md R8: the block is not built
  (spec/93_implementation_defined.md V5); safe (log 2). -/
  | malformedLayout
  /-- Raised by the completion of FIELDS when STAGE = 4 stands beside VARIANT.VAR = NONE, a state that no rule produces
  (spec/42_dispatch.md R181, spec/93_implementation_defined.md V4); safe (log 10). -/
  | noVariantSelected
deriving DecidableEq, Repr

/-- Every result register and result flag cleared, the frame `len` zero bytes (R49, spec/40_sync_extract.md R125). -/
def Results.cleared (len : Nat) : Results :=
  { stage := .none, crcOk := false, csumOk := false, syncOff := 0, frame := List.replicate len 0,
    crcCalc := 0, crcRx := 0, csumCalc := 0, csumRx := 0, var := Option.none, family := 0, typ := 0,
    channel := 0, battOk := false, sign := false, temp := 0, moist := 0, mraw := 0, id0 := 0, id1 := 0 }

/-- The block with LAYOUT `lay` after power-up number `powerUp` and reset (R49): nothing in BUF written, nothing on the
tape. -/
def State.resetWith (lay : Layout) (powerUp : Nat) : State :=
  { layout := lay, powerUp := powerUp, inReset := false, ctrl := ⟨0, false, false⟩, busy := false, done := false,
    ovr := false, cur := 0, result := .ok, cls := .none, lastCmd := 0, rowLen := 0, buf := [],
    res := Results.cleared lay.frameLen, rdata := 0, hostOk := true, tape := [] }

/-- The machine right after reset, built with the reference LAYOUT (log 1). -/
def State.reset : State := State.resetWith referenceLayout 0

end Sys2Proof.Machine
end

