-- ==== Sys2Proof/Machine/Flags.lean ====
section
/-! DEFINITION. The numeric codes of STATUS's fields and the computed flags (spec/10_state.md R33, R40, R47, spec/60_exceptions.md R270, R279). -/

namespace Sys2Proof.Machine

/-- STATUS.STAGE's number (R33). -/
def stageNum : Stage → Nat
  | .none => 0
  | .synced => 1
  | .extracted => 2
  | .verified => 3
  | .dispatched => 4
  | .decoded => 5

/-- STATUS.RESULT's number (R270). -/
def resultNum : ResultCode → Nat
  | .ok => 0
  | .notFound => 1
  | .insufficientLength => 2
  | .crcMismatch => 3
  | .checksumMismatch => 4
  | .unknownFamily => 5
  | .unknownType => 6
  | .channelRange => 7
  | .moistureRange => 8
  | .sequenceError => 9
  | .illegalCommand => 10
  | .badRowlen => 11

/-- STATUS.CLASS's number (R270). -/
def classNum : ResultClass → Nat
  | .none => 0
  | .abstain => 1
  | .abortLength => 2
  | .integrityFail => 3
  | .sanityFail => 4
  | .hostError => 5

/-- `class(code)` (R270, R272). -/
def classOf : ResultCode → ResultClass
  | .ok => .none
  | .notFound => .abstain
  | .insufficientLength => .abortLength
  | .crcMismatch => .integrityFail
  | .checksumMismatch => .integrityFail
  | .unknownFamily => .sanityFail
  | .unknownType => .sanityFail
  | .channelRange => .sanityFail
  | .moistureRange => .sanityFail
  | .sequenceError => .hostError
  | .illegalCommand => .hostError
  | .badRowlen => .hostError

/-- VARIANT.VAR's number (R13, R40): 0 is NONE. -/
def variantNum : Option Variant → Nat
  | .none => 0
  | .some .soilPercent => 1
  | .some .soilStep16 => 2

/-- RV: reads STAGE = 5, never written (R33, R47). -/
def readingValid (r : Results) : Bool :=
  r.stage == .decoded

/-- The interrupt output and STATUS.IRQ: `DONE & CTRL.IE`, a level (R48, R279). -/
def irq (s : State) : Bool :=
  s.done && s.ctrl.ie

end Sys2Proof.Machine
end

