-- ==== Sys2Proof/Machine/Ops.lean ====
section
/-! DEFINITION. The named operations over the bit buffer and the registers: buffer bytes, words and bits, the writes of spec/20_memory.md R80 and R81, starting and completing a command (spec/44_control.md R240, R241, spec/60_exceptions.md R271), and reset (spec/70_reset_and_hazards.md R300). The block takes no exception and returns from none (R275, R276): a failure is a code that `State.commit` stores. -/

namespace Sys2Proof.Machine

/-! The bit buffer. -/

/-- The canonical form: indices strictly rising. An unlisted byte is not written, which no listed byte can equal. -/
def Memory.wf (m : Memory) : Bool :=
  decide (m.Pairwise fun x y => x.1 < y.1)

/-- The byte last written at index `a` since power-up, if one was. -/
def Memory.read : Memory → Nat → Option Byte
  | [], _ => none
  | (k, v) :: m, a => if a = k then some v else Memory.read m a

/-- Byte `v` written at index `a`. -/
def Memory.write : Memory → Nat → Byte → Memory
  | [], a, v => [(a, v)]
  | (k, w) :: m, a, v =>
    if a < k then (a, v) :: (k, w) :: m
    else if a = k then (a, v) :: m
    else (k, w) :: Memory.write m a v

/-- `BUF_BYTE(b)` (spec/00_scope.md R12): as last written, or the power-up value (R301). -/
def bufByte (s : State) (b : Nat) : Byte :=
  (s.buf.read b).getD (Config.powerUpByte s.powerUp b)

/-- `Bit(i) = BUF_BYTE(i >> 3)[7 - (i mod 8)]` (spec/00_scope.md R12). -/
def bufBit (s : State) (i : Nat) : Bool :=
  (bufByte s (i / 8)).getLsbD (7 - i % 8)

/-- Byte lane `j` of a word, the most significant first: `word[31-8j : 24-8j]` (R76). -/
def wordLane (v : Word) (j : Nat) : Byte :=
  v.extractLsb' (24 - 8 * j) 8

/-- BUF with word `w` written: bytes `4w..4w+3`, big-endian (R76). -/
def Memory.writeWord (m : Memory) (w : Nat) (v : Word) : Memory :=
  (((m.write (4 * w) (wordLane v 0)).write (4 * w + 1) (wordLane v 1)).write (4 * w + 2) (wordLane v 2)).write
    (4 * w + 3) (wordLane v 3)

/-- BUF word `w` as the window reads it (R76). -/
def bufWord (s : State) (w : Nat) : Word :=
  bufByte s (4 * w) ++ bufByte s (4 * w + 1) ++ bufByte s (4 * w + 2) ++ bufByte s (4 * w + 3)

/-- How many words the BUF window has: `CAP_BITS/32` (R76). -/
def bufWords (lay : Layout) : Nat :=
  lay.capBits / 32

/-! Register updates. -/

/-- CMD, IE and VERBOSE stored from a CTRL word: every CTRL write that is not lost does this (R101 to R103, R307). -/
def State.setCtrl (cmd : Nibble) (ie verbose : Bool) (s : State) : State :=
  { s with ctrl := ⟨cmd, ie, verbose⟩ }

/-- A write lost while a command runs: it sets OVR and changes nothing else (R81, R278). -/
def State.loseWrite (s : State) : State :=
  { s with ovr := true }

/-- DONE cleared (R102). -/
def State.clearDone (s : State) : State :=
  { s with done := false }

/-- OVR cleared (R244). -/
def State.clearOvr (s : State) : State :=
  { s with ovr := false }

/-- A command started (R240): CTRL's fields and CUR latched, BUSY set, DONE cleared, nothing else. -/
def State.start (code : Nibble) (ie verbose : Bool) (s : State) : State :=
  { s with ctrl := ⟨code, ie, verbose⟩, cur := code, busy := true, done := false }

/-- A command completed (R241, R271): the registers it wrote, its code and class, LAST_CMD, BUSY cleared and DONE set, as
one change. -/
def State.commit (code : ResultCode) (r : Results) (s : State) : State :=
  { s with res := r, result := code, cls := classOf code, lastCmd := s.cur, busy := false, done := true }

/-- An input write of ROW_LEN while idle: LEN stored and STAGE reset (R34, R80). -/
def State.storeRowLen (n : BitVec 16) (s : State) : State :=
  { s with rowLen := n, res := { s.res with stage := .none } }

/-- An input write of BUF word `w` while idle: the word stored and STAGE reset (R76, R80). -/
def State.storeBufWord (w : Nat) (v : Word) (s : State) : State :=
  { s with buf := s.buf.writeWord w v, res := { s.res with stage := .none } }

/-- Every register at its reset value (R49); BUF keeps its contents (R301), and a running command is abandoned (R300). -/
def State.toResetValues (s : State) : State :=
  { s with ctrl := ⟨0, false, false⟩, busy := false, done := false, ovr := false, cur := 0, result := .ok, cls := .none,
           lastCmd := 0, rowLen := 0, res := Results.cleared s.layout.frameLen }

/-- The level of the reset input. -/
def State.setReset (asserted : Bool) (s : State) : State :=
  { s with inReset := asserted }

/-- The data a MemRead returns (R71). -/
def State.setRdata (v : Word) (s : State) : State :=
  { s with rdata := v }

/-- The moves still to come. -/
def State.setTape (t : List Move) (s : State) : State :=
  { s with tape := t }

/-- One more EXPECT line's verdict (spec/30_encoding.md R109). -/
def State.noteExpect (held : Bool) (s : State) : State :=
  { s with hostOk := s.hostOk && held }

/-- The block built from a LAYOUT, refused when the record breaks spec/00_scope.md R8. -/
def State.build (lay : Layout) (powerUp : Nat) : Option State :=
  if layoutWf lay then some (State.resetWith lay powerUp) else none

/-! Starting and completing commands. -/

/-- A CTRL write with GO = 1 (R101, R240): it starts the command while idle; while BUSY = 1 it is lost (R81). -/
def startCommand (code : Nibble) (ie verbose : Bool) (s : State) : Host.Outcome State Fault Refusal :=
  .next (if s.busy then s.loseWrite else s.start code ie verbose)

/-- What a command's pseudocode comes to: it goes on (to the next body of DECODE, or to `complete(OK)`) with the registers
written so far, it ends at a `complete(code)` (spec/00_scope.md R12), or it stands in a state the spec gives no meaning
(log 10). -/
inductive Flow where
  | goOn (r : Results)
  | ended (code : ResultCode) (r : Results)
  | noVariant
deriving DecidableEq, Repr

/-- The next body runs only if this one goes on (spec/44_control.md R243). -/
def Flow.andThen (f : Flow) (body : Results → Flow) : Flow :=
  match f with
  | .goOn r => body r
  | .ended code r => .ended code r
  | .noVariant => .noVariant

/-- The stage interlock (R246): a step command at another STAGE ends with SEQUENCE_ERROR and writes nothing. -/
def interlock (need : Stage) (body : Results → Flow) (r : Results) : Flow :=
  if r.stage = need then body r else .ended .sequenceError r

/-- The completion step's commit of what the pseudocode came to; a body that goes on to its end has `complete(OK)`. -/
def finish (s : State) : Flow → Host.Outcome State Fault Refusal
  | .goOn r => .next (s.commit .ok r)
  | .ended code r => .next (s.commit code r)
  | .noVariant => .refused .noVariantSelected

/-- `ClearFrameState()` (spec/40_sync_extract.md R125), which SYNC, DECODE and CLEAR run. -/
def clearFrameState (s : State) : Results :=
  Results.cleared s.layout.frameLen

end Sys2Proof.Machine
end

