-- ==== Sys2Proof/Machine/Operands.lean ====
section
/-! DEFINITION. The operands the commands read and the words the registers read as: frame bytes, nibbles and bits (spec/00_scope.md R12), the payload (spec/41_integrity.md), the identifier (spec/20_memory.md R78), the preamble's bits (spec/40_sync_extract.md R120), and every register's packing (spec/10_state.md R32 to R44). -/

namespace Sys2Proof.Machine

/-! Frame operands. -/

/-- `F[k]` (spec/00_scope.md R11), 0 past the frame (spec/20_memory.md R77). -/
def frameByte (f : List Byte) (k : Nat) : Byte :=
  f.getD k 0

/-- `v[7:4]` or `v[3:0]` of a byte (R7). -/
def byteHalf (b : Byte) : NibbleHalf → Nibble
  | .hi => b.extractLsb' 4 4
  | .lo => b.extractLsb' 0 4

/-- `Nib((k, HI)) = F[k][7:4]` and `Nib((k, LO)) = F[k][3:0]` (R12). -/
def frameNib (f : List Byte) (p : NibblePos) : Nibble :=
  byteHalf (frameByte f p.index) p.half

/-- `FBit(k, b) = F[k][b]` (R12). -/
def frameBit (f : List Byte) (k b : Nat) : Bool :=
  (frameByte f k).getLsbD b

/-- The payload `P = F[PAY_START..PAY_END]`, both ends included. -/
def payload (lay : Layout) (f : List Byte) : List Byte :=
  (List.range (lay.payEnd + 1 - lay.payStart)).map fun i => frameByte f (lay.payStart + i)

/-- The transmitted CRC `{F[CRC_POS], F[CRC_POS+1]}` (spec/41_integrity.md R151, spec/20_memory.md R79). -/
def crcReceived (lay : Layout) (f : List Byte) : BitVec 16 :=
  frameByte f lay.crcPos ++ frameByte f (lay.crcPos + 1)

/-- The transmitted checksum `F[CSUM_POS]` (spec/41_integrity.md R152). -/
def csumReceived (lay : Layout) (f : List Byte) : Byte :=
  frameByte f lay.csumPos

/-- Identifier byte lane `j`: `F[ID_POS + j]` below ID_LEN, else 0 (R78). -/
def idByte (lay : Layout) (f : List Byte) (j : Nat) : Byte :=
  if j < lay.idLen then frameByte f (lay.idPos + j) else 0

/-- ID0 (`base = 0`) and ID1 (`base = 4`) (R78). -/
def idWord (lay : Layout) (f : List Byte) (base : Nat) : Word :=
  idByte lay f base ++ idByte lay f (base + 1) ++ idByte lay f (base + 2) ++ idByte lay f (base + 3)

/-- `PBit(j) = PRE_PAT[PRE_LEN-1-j]` (R120). -/
def patternBit (lay : Layout) (j : Nat) : Bool :=
  lay.prePat.getLsbD (lay.preLen - 1 - j)

/-! Register words. -/

/-- CTRL as read: GO, ACK and the reserved bits read 0 (R32). -/
def ctrlWord (s : State) : Word :=
  0#22 ++ BitVec.ofBool s.ctrl.verbose ++ BitVec.ofBool s.ctrl.ie ++ 0#4 ++ s.ctrl.cmd

/-- STATUS as read (R33). -/
def statusWord (s : State) : Word :=
  0#8 ++ s.lastCmd ++ 0#1 ++ BitVec.ofBool (readingValid s.res) ++ BitVec.ofBool s.res.csumOk ++
    BitVec.ofBool s.res.crcOk ++ 0#1 ++ BitVec.ofNat 3 (stageNum s.res.stage) ++ 0#1 ++ BitVec.ofNat 3 (classNum s.cls) ++
    BitVec.ofNat 4 (resultNum s.result) ++ BitVec.ofBool (irq s) ++ BitVec.ofBool s.ovr ++ BitVec.ofBool s.done ++
    BitVec.ofBool s.busy

/-- ROW_LEN as read (R34). -/
def rowLenWord (s : State) : Word :=
  0#16 ++ s.rowLen

/-- SYNC_OFF as read (R35). -/
def syncOffWord (r : Results) : Word :=
  0#16 ++ r.syncOff

/-- CRC as read (R38). -/
def crcWord (r : Results) : Word :=
  r.crcRx ++ r.crcCalc

/-- CSUM as read (R39). -/
def csumWord (r : Results) : Word :=
  0#16 ++ r.csumRx ++ r.csumCalc

/-- VARIANT as read (R40). -/
def variantWord (r : Results) : Word :=
  0#8 ++ r.typ ++ r.family ++ 0#6 ++ BitVec.ofNat 2 (variantNum r.var)

/-- READING0 as read (R41). -/
def reading0Word (r : Results) : Word :=
  r.temp ++ 0#10 ++ BitVec.ofBool r.sign ++ BitVec.ofBool r.battOk ++ r.channel

/-- READING1 as read (R42). -/
def reading1Word (r : Results) : Word :=
  0#16 ++ r.mraw ++ r.moist

/-- INFO as read, a constant (R44). -/
def infoWord (lay : Layout) : Word :=
  BitVec.ofNat 16 lay.capBits ++ BitVec.ofNat 8 lay.preLen ++ BitVec.ofNat 8 lay.frameLen

/-- PREAMBLE as read, a constant: PRE_PAT's low PRE_LEN bits, the bits above 0 (R44). -/
def preambleWord (lay : Layout) : Word :=
  BitVec.ofNat 32 (lay.prePat.toNat % 2 ^ lay.preLen)

/-- Word `w` of the FRAME window: `{FB(4w), .., FB(4w+3)}`, 0 at and past `L` (R77). -/
def frameWord (lay : Layout) (f : List Byte) (w : Nat) : Word :=
  let fb := fun k => if k < lay.frameLen then frameByte f k else 0
  fb (4 * w) ++ fb (4 * w + 1) ++ fb (4 * w + 2) ++ fb (4 * w + 3)

end Sys2Proof.Machine
end

