-- ==== Sys2Proof/Machine/Fields.lean ====
section
/-! DEFINITION. FIELDS: the packed field decoder (spec/43_fields.md). -/

namespace Sys2Proof.Machine

/-- `BCD2(t, u) = 10*t + u`, with no check that a nibble is a decimal digit (R203). -/
def bcd2 (t u : Nibble) : Nat :=
  10 * t.toNat + u.toNat

/-- The valid channels are 1..7 (R201). -/
def channelValid (ch : Nibble) : Bool :=
  decide (1 ≤ ch.toNat) && decide (ch.toNat ≤ 7)

/-- The temperature in tenths of a degree, an exact integer (R204 to R206, R213). -/
def temperature (g : FieldLayout) (f : List Byte) : Int :=
  if frameBit f g.statPos g.signBit then
    -((bcd2 (frameNib f g.negA) (frameNib f g.negB) : Nat) : Int)
  else
    10 * ((bcd2 (frameNib f ⟨g.t0Pos, .hi⟩) (frameNib f ⟨g.t0Pos, .lo⟩) : Nat) : Int) +
      ((frameNib f ⟨g.t1Pos, .hi⟩).toNat : Int)

/-- MRAW (R208). -/
def moistureRaw (g : FieldLayout) (f : List Byte) : Nat :=
  bcd2 (frameNib f ⟨g.mstPos, .hi⟩) (frameNib f ⟨g.mstPos, .lo⟩)

/-- MOIST from MRAW, if the mode admits it (R209, R210). -/
def moisture (mode : MoistureMode) (raw : Nat) : Option Nat :=
  match mode with
  | .direct => some raw
  | .table => if 1 ≤ raw ∧ raw ≤ 16 then some (moistureTable.getD (raw - 1) 0) else none

/-- The registers a FIELDS that succeeds writes together (R211, R212). -/
def fieldResults (lay : Layout) (g : FieldLayout) (moist : Nat) (r : Results) : Results :=
  { r with
    channel := frameNib r.frame g.chan
    battOk := frameBit r.frame g.statPos g.battBit
    sign := frameBit r.frame g.statPos g.signBit
    temp := BitVec.ofInt 16 (temperature g r.frame)
    moist := BitVec.ofNat 8 moist
    mraw := BitVec.ofNat 8 (moistureRaw g r.frame)
    id0 := idWord lay r.frame 0
    id1 := idWord lay r.frame 4
    stage := .decoded }

/-- `Body(FIELDS)` (R211, R212): the channel is tested first, then the moisture index. VARIANT.VAR = NONE has no field
layout (log 10). -/
def bodyFields (s : State) (r : Results) : Flow :=
  match r.var with
  | none => .noVariant
  | some v =>
    let g := fieldLayout s.layout v
    if channelValid (frameNib r.frame g.chan) then
      match moisture g.mstMode (moistureRaw g r.frame) with
      | none => .ended .moistureRange r
      | some m => .goOn (fieldResults s.layout g m r)
    else .ended .channelRange r

/-- FIELDS's CTRL write (R212, R240). -/
def execFields (ie verbose : Bool) (s : State) : Host.Outcome State Fault Refusal :=
  startCommand 0x6#4 ie verbose s

/-- FIELDS's completion (R212, R246). -/
def completeFields (s : State) : Host.Outcome State Fault Refusal :=
  finish s (interlock .dispatched (bodyFields s) s.res)

end Sys2Proof.Machine
end

