-- ==== Sys2Proof/Machine/Integrity.lean ====
section
/-! DEFINITION. VERIFY: the CRC-16 and the additive checksum (spec/41_integrity.md). -/

namespace Sys2Proof.Machine

/-- One bit of the CRC register's shift (R150). -/
def crcShift (c : BitVec 16) : BitVec 16 :=
  if c.getLsbD 15 then (c <<< 1) ^^^ crcPoly else c <<< 1

/-- One byte taken into the CRC, most significant bit first (R150). -/
def crcByte (c : BitVec 16) (b : Byte) : BitVec 16 :=
  Nat.repeat crcShift 8 (c ^^^ (b.setWidth 16 <<< 8))

/-- `CRC16(b)` (R150): initial value 0, no reflection, no final XOR. -/
def crc16 (bs : List Byte) : BitVec 16 :=
  bs.foldl crcByte 0

/-- `CS_CALC`: the sum modulo 256, complemented (R152). -/
def checksum (bs : List Byte) : Byte :=
  bs.foldl (· + ·) 0 ^^^ 0xFF#8

/-- The registers VERIFY writes, whatever the outcome (R154, R155). -/
def verifyResults (lay : Layout) (r : Results) : Results :=
  let p := payload lay r.frame
  { r with
    crcCalc := crc16 p
    crcRx := crcReceived lay r.frame
    csumCalc := checksum p
    csumRx := csumReceived lay r.frame
    crcOk := crc16 p == crcReceived lay r.frame
    csumOk := checksum p == csumReceived lay r.frame }

/-- `Body(VERIFY)` (R154): the CRC is tested first (R155). -/
def bodyVerify (s : State) (r : Results) : Flow :=
  let v := verifyResults s.layout r
  if v.crcOk then
    if v.csumOk then .goOn { v with stage := .verified } else .ended .checksumMismatch v
  else .ended .crcMismatch v

/-- VERIFY's CTRL write (R154, R240). -/
def execVerify (ie verbose : Bool) (s : State) : Host.Outcome State Fault Refusal :=
  startCommand 0x4#4 ie verbose s

/-- VERIFY's completion (R154, R246). -/
def completeVerify (s : State) : Host.Outcome State Fault Refusal :=
  finish s (interlock .extracted (bodyVerify s) s.res)

end Sys2Proof.Machine
end

