-- ==== Sys2Proof/Machine/ModelDispatch.lean ====
section
/-! DEFINITION. DISPATCH: the family and type check that selects the variant (spec/42_dispatch.md). -/

namespace Sys2Proof.Machine

/-- The variant TYPE_MAP gives a type byte, if any (R180). -/
def typeVariant (m : List (Byte × Variant)) (b : Byte) : Option Variant :=
  m.lookup b

/-- `Body(DISPATCH)` (R180, R181): the family first; only if it is recognized is the type byte read. -/
def bodyDispatch (s : State) (r : Results) : Flow :=
  let fam := frameByte r.frame s.layout.famPos
  if fam = s.layout.famVal then
    let typ := frameByte r.frame s.layout.typePos
    match typeVariant s.layout.typeMap typ with
    | none => .ended .unknownType { r with family := fam, typ := typ, var := none }
    | some v => .goOn { r with family := fam, typ := typ, var := some v, stage := .dispatched }
  else .ended .unknownFamily { r with family := fam, typ := 0, var := none }

/-- DISPATCH's CTRL write (R181, R240). -/
def execDispatch (ie verbose : Bool) (s : State) : Host.Outcome State Fault Refusal :=
  startCommand 0x5#4 ie verbose s

/-- DISPATCH's completion (R181, R246). -/
def completeDispatch (s : State) : Host.Outcome State Fault Refusal :=
  finish s (interlock .verified (bodyDispatch s) s.res)

end Sys2Proof.Machine
end

