-- ==== Sys2Proof/Machine/SyncExtract.lean ====
section
/-! DEFINITION. SYNC and EXTRACT: the preamble search and the frame copy (spec/40_sync_extract.md). For each, `exec…` is the CTRL write and `complete…` the completion step's pseudocode. -/

namespace Sys2Proof.Machine

/-- The pattern's bits stand at bit position `p` of the buffer (R121, without its length condition). -/
def patternAt (s : State) (p : Nat) : Bool :=
  (List.range s.layout.preLen).all fun j => bufBit s (p + j) == patternBit s.layout j

/-- The search from position `p` over `k` positions: the first match's end (R122). -/
def syncSearchFrom (s : State) (p : Nat) : (k : Nat) → Option Nat
  | 0 => none
  | k + 1 => if patternAt s p then some (p + s.layout.preLen) else syncSearchFrom s (p + 1) k

/-- `SyncSearch(n)` (R122): positions 0, 1, 2, … while `p + PRE_LEN <= n`. -/
def syncSearch (s : State) (n : Nat) : Option Nat :=
  syncSearchFrom s 0 (n + 1 - s.layout.preLen)

/-- `Body(SYNC)` (R123): the per-frame clear, the row length check, the search. -/
def bodySync (s : State) : Flow :=
  let r := clearFrameState s
  if s.layout.capBits < s.rowLen.toNat then .ended .badRowlen r
  else match syncSearch s s.rowLen.toNat with
    | none => .ended .notFound r
    | some off => .goOn { r with syncOff := BitVec.ofNat 16 off, stage := .synced }

/-- SYNC's CTRL write (R123, R240). -/
def execSync (ie verbose : Bool) (s : State) : Host.Outcome State Fault Refusal :=
  startCommand 0x2#4 ie verbose s

/-- SYNC's completion (R123). -/
def completeSync (s : State) : Host.Outcome State Fault Refusal :=
  finish s (bodySync s)

/-- One frame byte: eight buffer bits from bit `i`, the first in bit 7 (R130). -/
def extractByte (s : State) (i : Nat) : Byte :=
  BitVec.ofNat 8 (((List.range 8).map fun j => (bufBit s (i + j)).toNat * 2 ^ (7 - j)).sum)

/-- `ExtractFrame(off)` (R130). -/
def extractFrame (s : State) (off : Nat) : List Byte :=
  (List.range s.layout.frameLen).map fun k => extractByte s (off + 8 * k)

/-- `Body(EXTRACT)` (R131, R132). -/
def bodyExtract (s : State) (r : Results) : Flow :=
  let off := r.syncOff.toNat
  if s.rowLen.toNat < off + 8 * s.layout.frameLen then .ended .insufficientLength r
  else .goOn { r with frame := extractFrame s off, stage := .extracted }

/-- EXTRACT's CTRL write (R132, R240). -/
def execExtract (ie verbose : Bool) (s : State) : Host.Outcome State Fault Refusal :=
  startCommand 0x3#4 ie verbose s

/-- EXTRACT's completion (R132, R246). -/
def completeExtract (s : State) : Host.Outcome State Fault Refusal :=
  finish s (interlock .synced (bodyExtract s) s.res)

end Sys2Proof.Machine
end

