-- ==== Sys2Proof/Machine/Control.lean ====
section
/-! DEFINITION. The commands that are not one pipeline step: DECODE, NOP, CLEAR and the reserved codes (spec/44_control.md), and the CTRL writes that start nothing: ACK and SETCTRL (spec/30_encoding.md R102, R103). -/

namespace Sys2Proof.Machine

/-- NOP's CTRL write (R240, R242). -/
def execNop (ie verbose : Bool) (s : State) : Host.Outcome State Fault Refusal :=
  startCommand 0x0#4 ie verbose s

/-- NOP's completion: `complete(OK)` and nothing else (R242). -/
def completeNop (s : State) : Host.Outcome State Fault Refusal :=
  finish s (.ended .ok s.res)

/-- DECODE's CTRL write (R240, R243). -/
def execDecode (ie verbose : Bool) (s : State) : Host.Outcome State Fault Refusal :=
  startCommand 0x1#4 ie verbose s

/-- The whole pipeline (R243): the five bodies in order, without their STAGE checks. -/
def pipeline (s : State) : Flow :=
  ((((bodySync s).andThen (bodyExtract s)).andThen (bodyVerify s)).andThen (bodyDispatch s)).andThen (bodyFields s)

/-- DECODE's completion (R243). -/
def completeDecode (s : State) : Host.Outcome State Fault Refusal :=
  finish s (pipeline s)

/-- CLEAR's CTRL write (R240, R244). -/
def execClear (ie verbose : Bool) (s : State) : Host.Outcome State Fault Refusal :=
  startCommand 0x7#4 ie verbose s

/-- CLEAR's completion: the per-frame clear and OVR cleared (R244). -/
def completeClear (s : State) : Host.Outcome State Fault Refusal :=
  finish s.clearOvr (.ended .ok (clearFrameState s))

/-- A reserved code's CTRL write (R105, R240). -/
def execReserved (code : Nibble) (ie verbose : Bool) (s : State) : Host.Outcome State Fault Refusal :=
  startCommand code ie verbose s

/-- A reserved code's completion: ILLEGAL_COMMAND and nothing else (R245). -/
def completeReserved (s : State) : Host.Outcome State Fault Refusal :=
  finish s (.ended .illegalCommand s.res)

/-- ACK (R102): CMD, IE and VERBOSE stored, and DONE cleared while idle; while BUSY = 1 the ACK bit has no effect. -/
def execAck (cmd : Nibble) (ie verbose : Bool) (s : State) : Host.Outcome State Fault Refusal :=
  .next (if s.busy then s.setCtrl cmd ie verbose else (s.setCtrl cmd ie verbose).clearDone)

/-- SETCTRL (R103): CMD, IE and VERBOSE stored, whatever BUSY is. -/
def execSetctrl (cmd : Nibble) (ie verbose : Bool) (s : State) : Host.Outcome State Fault Refusal :=
  .next (s.setCtrl cmd ie verbose)

/-- `Exec(CUR)` and its commit (R241): the completion step of the running command. -/
def completeCommand (s : State) : Host.Outcome State Fault Refusal :=
  match s.cur.toNat with
  | 0 => completeNop s
  | 1 => completeDecode s
  | 2 => completeSync s
  | 3 => completeExtract s
  | 4 => completeVerify s
  | 5 => completeDispatch s
  | 6 => completeFields s
  | 7 => completeClear s
  | _ => completeReserved s

/-- The core's move: the completion step while BUSY = 1, nothing otherwise (R30, R241, R284). -/
def coreMove (s : State) : Host.Outcome State Fault Refusal :=
  if s.busy && !s.inReset then completeCommand s else .next s

end Sys2Proof.Machine
end

