-- ==== Sys2Proof/Machine/Dispatch.lean ====
section
/-! DEFINITION. One arm per instruction (spec/opcode_table.json): what a decoded CTRL write does to the state. -/

namespace Sys2Proof.Machine

def exec (i : Instr) (s : State) : Host.Outcome State Fault Refusal :=
  match i with
  | .nop ie verbose => Sys2Proof.Machine.execNop ie verbose s
  | .decode ie verbose => Sys2Proof.Machine.execDecode ie verbose s
  | .sync ie verbose => Sys2Proof.Machine.execSync ie verbose s
  | .extract ie verbose => Sys2Proof.Machine.execExtract ie verbose s
  | .verify ie verbose => Sys2Proof.Machine.execVerify ie verbose s
  | .dispatch ie verbose => Sys2Proof.Machine.execDispatch ie verbose s
  | .fields ie verbose => Sys2Proof.Machine.execFields ie verbose s
  | .clear ie verbose => Sys2Proof.Machine.execClear ie verbose s
  | .reserved code ie verbose => Sys2Proof.Machine.execReserved code ie verbose s
  | .ack cmd ie verbose => Sys2Proof.Machine.execAck cmd ie verbose s
  | .setctrl cmd ie verbose => Sys2Proof.Machine.execSetctrl cmd ie verbose s

end Sys2Proof.Machine
end

