-- ==== Sys2Proof/Machine/Bus.lean ====
section
/-! DEFINITION. The host's bus port: address decoding, MemRead and MemWrite (spec/20_memory.md), the reset input (spec/70_reset_and_hazards.md R300), and the next move of the one total order (R84). -/

namespace Sys2Proof.Machine

/-- What an address selects (R72). -/
inductive Target where
  | ctrl
  | status
  | rowLen
  | syncOff
  | crc
  | csum
  | variant
  | reading0
  | reading1
  | id0
  | id1
  | info
  | preamble
  | frame (w : Nat)
  | buf (w : Nat)
  | reserved
deriving DecidableEq, Repr

/-- The register word an address reaches: address bits [10:2]; bits [1:0] and the bits above 10 do not matter (R70, R71). -/
def wordIndex (addr : Word) : Nat :=
  (addr.extractLsb' 2 9).toNat

/-- The register map (R72), by word index (the byte offset over 4). -/
def targetOf (k : Nat) : Target :=
  match k with
  | 0 => .ctrl
  | 1 => .status
  | 2 => .rowLen
  | 3 => .syncOff
  | 4 => .crc
  | 5 => .csum
  | 6 => .variant
  | 7 => .reading0
  | 8 => .reading1
  | 9 => .id0
  | 10 => .id1
  | 12 => .info
  | 13 => .preamble
  | k => if 16 ≤ k ∧ k < 32 then .frame (k - 16) else if 256 ≤ k then .buf (k - 256) else .reserved

/-- What a read of a target returns (R72 to R77, R82). A command's registers hold their old values until it commits, so
no case depends on BUSY. -/
def readTarget (s : State) : Target → Word
  | .ctrl => ctrlWord s
  | .status => statusWord s
  | .rowLen => rowLenWord s
  | .syncOff => syncOffWord s.res
  | .crc => crcWord s.res
  | .csum => csumWord s.res
  | .variant => variantWord s.res
  | .reading0 => reading0Word s.res
  | .reading1 => reading1Word s.res
  | .id0 => s.res.id0
  | .id1 => s.res.id1
  | .info => infoWord s.layout
  | .preamble => preambleWord s.layout
  | .frame w => frameWord s.layout s.res.frame w
  | .buf w => if w < bufWords s.layout then bufWord s w else 0
  | .reserved => 0

/-- `MemRead(addr, 4)`: during reset a read returns 0 (R71, R300). -/
def memRead (s : State) (addr : Word) : Word :=
  if s.inReset then 0 else readTarget s (targetOf (wordIndex addr))

/-- An input write: stored while idle, lost with OVR while BUSY = 1 (R80, R81). -/
def inputWrite (store : State → State) (s : State) : State :=
  if s.busy then s.loseWrite else store s

/-- What a write of a target does: CTRL runs the decoded word, ROW_LEN and BUF are input writes (R75, R76), the rest
ignore it (R73). -/
def writeTarget (v : Word) (s : State) : Target → Host.Outcome State Fault Refusal
  | .ctrl => exec (decode v) s
  | .rowLen => .next (inputWrite (State.storeRowLen (v.extractLsb' 0 16)) s)
  | .buf w => .next (if w < bufWords s.layout then inputWrite (State.storeBufWord w v) s else s)
  | .status => .next s
  | .syncOff => .next s
  | .crc => .next s
  | .csum => .next s
  | .variant => .next s
  | .reading0 => .next s
  | .reading1 => .next s
  | .id0 => .next s
  | .id1 => .next s
  | .info => .next s
  | .preamble => .next s
  | .frame _ => .next s
  | .reserved => .next s

/-- `MemWrite(addr, 4, v)`: during reset a write stores nothing (R71, R300). -/
def memWrite (addr v : Word) (s : State) : Host.Outcome State Fault Refusal :=
  if s.inReset then .next s else writeTarget v s (targetOf (wordIndex addr))

/-- The reset input goes to a level (R300): while asserted, and at the moment it is deasserted, every register holds its
reset value (log 12). A deassertion of an input that is not asserted is no change. -/
def resetMove (asserted : Bool) (s : State) : State :=
  if asserted || s.inReset then s.toResetValues.setReset asserted else s

/-- One move of the environment or the core. A POLL whose condition fails leaves the core its move and then polls again
(spec/30_encoding.md R109, log 7). -/
def runMove (m : Move) (rest : List Move) (s : State) : Host.Outcome State Fault Refusal :=
  match m with
  | .write addr v => memWrite addr v (s.setTape rest)
  | .read addr => .next ((s.setTape rest).setRdata (memRead s addr))
  | .poll addr mask val =>
    .next ((s.setTape (if memRead s addr &&& mask = val then rest else .core :: .poll addr mask val :: rest)).setRdata
      (memRead s addr))
  | .expect addr mask val =>
    .next (((s.setTape rest).setRdata (memRead s addr)).noteExpect (memRead s addr &&& mask == val))
  | .core => coreMove (s.setTape rest)
  | .resetInput asserted => .next (resetMove asserted (s.setTape rest))

/-- The next move of the total order. When no move is left, a running command completes (weak fairness, R241, R308) and an
idle block holds its state (R284). -/
def nextMove (s : State) : Host.Outcome State Fault Refusal :=
  match s.tape with
  | [] => coreMove s
  | m :: rest => runMove m rest s

end Sys2Proof.Machine
end

