-- ==== Sys2Proof/Machine/Step.lean ====
section
/-! DEFINITION. One step of the machine: the next move of the total order (spec/20_memory.md R84), and the word of an instruction placed as the next CTRL write. -/

namespace Sys2Proof.Machine

/-- One step. A block is never built from a malformed LAYOUT (spec/00_scope.md R8). -/
def step (s : State) : Host.Outcome State Fault Refusal :=
  if layoutWf s.layout then nextMove s else .refused .malformedLayout

/-- The block fetches nothing (spec/10_state.md R31): an instruction is the host's CTRL write (spec/30_encoding.md R100).
The word is placed as the next move, a write to offset 0x000, with the reset input low so that the write is not ignored
(log 5). -/
def State.withFetchWord (s : State) (nbits w : Nat) : State :=
  { s with inReset := false, tape := .write 0x000#32 (tableWord nbits w) :: s.tape }

end Sys2Proof.Machine
end

