-- ==== Sys2Proof/Machine/Assembler.lean ====
section
/-! DEFINITION. The host program's operations and pseudo-instructions (spec/30_encoding.md R109 to R111), expanded to moves of the tape. -/

namespace Sys2Proof.Machine

/-- An operation of a host program (R109). Offsets count from the block's base address. -/
inductive HostOp where
  | wr (off imm : Word)
  | rd (off : Word)
  | poll (off mask val : Word)
  | expect (off mask val : Word)
deriving DecidableEq, Repr

/-- The commands that have a name (R104). -/
inductive CommandName where
  | nop
  | decode
  | sync
  | extract
  | verify
  | dispatch
  | fields
  | clear
deriving DecidableEq, Repr

/-- A pseudo-instruction (R110). `loadBits` has the hex string's digits, the first digit first, and the bit count `n`. -/
inductive PseudoOp where
  | cmd (name : CommandName) (ie : Bool)
  | wait
  | run (name : CommandName)
  | ack
  | setLen (n : Word)
  | load (w : Nat) (imm : Word)
  | loadBits (hex : List Nibble) (n : Nat)
deriving DecidableEq, Repr

/-- `code(name)` (R104). -/
def commandCode : CommandName → Word
  | .nop => 0
  | .decode => 1
  | .sync => 2
  | .extract => 3
  | .verify => 4
  | .dispatch => 5
  | .fields => 6
  | .clear => 7

/-- The bus move of an operation, with the platform's base address BASE (R109, log 11). -/
def HostOp.move (base : Word) : HostOp → Move
  | .wr off imm => .write (base + off) imm
  | .rd off => .read (base + off)
  | .poll off mask val => .poll (base + off) mask val
  | .expect off mask val => .expect (base + off) mask val

/-- `CMD name` and `CMD name, IE` (R110). -/
def cmdOp (name : CommandName) (ie : Bool) : HostOp :=
  .wr 0x000#32 ((if ie then 0x110#32 else 0x10#32) + commandCode name)

/-- `WAIT` (R110): until BUSY = 0 and DONE = 1. -/
def waitOp : HostOp :=
  .poll 0x004#32 0x3#32 0x2#32

/-- `LOAD w, imm32` (R110). -/
def loadOp (w : Nat) (imm : Word) : HostOp :=
  .wr (0x400#32 + BitVec.ofNat 32 (4 * w)) imm

/-- `SETLEN n` (R110). -/
def setLenOp (n : Word) : HostOp :=
  .wr 0x008#32 n

/-- Hex digits `8w .. 8w+7`, padded with zeros on the right, as one word (R110). -/
def hexWord (hex : List Nibble) (w : Nat) : Word :=
  (List.range 8).foldl (fun acc k => (acc <<< 4) ||| (hex.getD (8 * w + k) 0).setWidth 32) 0

/-- The expansion of a pseudo-instruction (R110). LOADBITS writes the length last. -/
def PseudoOp.expand : PseudoOp → List HostOp
  | .cmd name ie => [cmdOp name ie]
  | .wait => [waitOp]
  | .run name => [cmdOp name false, waitOp]
  | .ack => [.wr 0x000#32 0x20#32]
  | .setLen n => [setLenOp n]
  | .load w imm => [loadOp w imm]
  | .loadBits hex n =>
    (List.range ((n + 31) / 32)).map (fun w => loadOp w (hexWord hex w)) ++ [setLenOp (BitVec.ofNat 32 n)]

end Sys2Proof.Machine
end

