-- ==== Sys2Proof/Safety.lean ====
section
/-! DEFINITION. What counts as a safe run, and the terms the statements use: where the preamble stands, the invariant that ties STAGE to the current input, and running one command to its completion. -/

namespace Sys2Proof.Machine

/-- The pattern matches at bit position `p` of a buffer holding `n` valid bits (spec/40_sync_extract.md R121). -/
def PreambleAt (s : State) (n p : Nat) : Prop :=
  p + s.layout.preLen ≤ n ∧ ∀ j, j < s.layout.preLen → bufBit s (p + j) = patternBit s.layout j

/-- `p` is the smallest position at which the pattern matches (R122). -/
def FirstPreambleAt (s : State) (n p : Nat) : Prop :=
  PreambleAt s n p ∧ ∀ q, q < p → ¬ PreambleAt s n q

/-- `f` is the frame that starts at buffer bit `off`: bit `off` is bit 7 of byte 0 and bit `off + 8L - 1` is bit 0 of byte
`L-1` (R130). -/
def IsFrameAt (s : State) (off : Nat) (f : List Byte) : Prop :=
  f.length = s.layout.frameLen ∧
  ∀ k j, k < s.layout.frameLen → j < 8 → (frameByte f k).getLsbD (7 - j) = bufBit s (off + 8 * k + j)

/-- The host's duty of spec/70_reset_and_hazards.md R301, R303: every bit `0..LEN-1` has been written since power-up. -/
def InputWritten (s : State) : Prop :=
  ∀ i, i < s.rowLen.toNat → (s.buf.read (i / 8)).isSome

/-- "No OVR" (spec/70_reset_and_hazards.md R305): no write of the host has been lost since OVR was last cleared. -/
def NoLostWrite (s : State) : Prop :=
  s.ovr = false

/-- Both integrity checks of a frame pass (spec/41_integrity.md R151, R152). -/
def IntegrityPasses (lay : Layout) (f : List Byte) : Prop :=
  crc16 (payload lay f) = crcReceived lay f ∧ checksum (payload lay f) = csumReceived lay f

/-- The registers after the per-frame clear and a successful search with `SYNC_OFF = off` (spec/40_sync_extract.md R123,
R125). -/
def Results.afterSync (lay : Layout) (off : BitVec 16) : Results :=
  { Results.cleared lay.frameLen with syncOff := off, stage := .synced }

/-- And after the frame `f` is copied (R132). -/
def Results.afterExtract (lay : Layout) (off : BitVec 16) (f : List Byte) : Results :=
  { Results.afterSync lay off with frame := f, stage := .extracted }

/-- And after both checks pass (spec/41_integrity.md R154). -/
def Results.afterVerify (lay : Layout) (off : BitVec 16) (f : List Byte) : Results :=
  { verifyResults lay (Results.afterExtract lay off f) with stage := .verified }

/-- And after the frame selects variant `v` (spec/42_dispatch.md R181). -/
def Results.afterDispatch (lay : Layout) (off : BitVec 16) (f : List Byte) (v : Variant) : Results :=
  { Results.afterVerify lay off f with family := frameByte f lay.famPos, typ := frameByte f lay.typePos, var := some v,
                                       stage := .dispatched }

/-- The registers show exactly the stages that ran (spec/60_exceptions.md R275, spec/40_sync_extract.md R125, R132). The
registers of a stage that has not run are still the zeros of the per-frame clear: at STAGE = 1 FRAME, CRC, CSUM, VARIANT and
the reading, at STAGE = 2 VARIANT and the reading, at STAGE = 3 VAR and the reading, at STAGE = 4 the reading. A stage that
failed shows its diagnostics: VERIFY at STAGE = 2 its CRC and CSUM, DISPATCH at STAGE = 3 FAMILY, and TYPE where it was
read. STAGE = 0 says nothing: an input write keeps the registers (spec/20_memory.md R80). -/
def ShowsStagesRun (lay : Layout) (r : Results) : Prop :=
  let fam := frameByte r.frame lay.famPos
  let typ := frameByte r.frame lay.typePos
  match r.stage with
  | .none => True
  | .synced => r = .afterSync lay r.syncOff
  | .extracted => r = .afterExtract lay r.syncOff r.frame ∨
      (¬ IntegrityPasses lay r.frame ∧ r = verifyResults lay (.afterExtract lay r.syncOff r.frame))
  | .verified => r = .afterVerify lay r.syncOff r.frame ∨
      (fam ≠ lay.famVal ∧ r = { Results.afterVerify lay r.syncOff r.frame with family := fam }) ∨
      (fam = lay.famVal ∧ typeVariant lay.typeMap typ = none ∧
        r = { Results.afterVerify lay r.syncOff r.frame with family := fam, typ := typ })
  | .dispatched => ∃ v, r = .afterDispatch lay r.syncOff r.frame v
  | .decoded => ∃ v m, r = fieldResults lay (fieldLayout lay v) m (.afterDispatch lay r.syncOff r.frame v)

/-- What STAGE says of the current input (spec/10_state.md R33): it has passed every pipeline step up to STAGE, and the
registers show exactly the stages that ran. -/
structure StageSound (s : State) : Prop where
  synced : 1 ≤ stageNum s.res.stage →
    s.rowLen.toNat ≤ s.layout.capBits ∧
    ∃ p, FirstPreambleAt s s.rowLen.toNat p ∧ s.res.syncOff.toNat = p + s.layout.preLen
  extracted : 2 ≤ stageNum s.res.stage →
    s.res.syncOff.toNat + 8 * s.layout.frameLen ≤ s.rowLen.toNat ∧ IsFrameAt s s.res.syncOff.toNat s.res.frame
  verified : 3 ≤ stageNum s.res.stage →
    s.res.crcOk = true ∧ s.res.csumOk = true ∧ IntegrityPasses s.layout s.res.frame
  dispatched : 4 ≤ stageNum s.res.stage →
    frameByte s.res.frame s.layout.famPos = s.layout.famVal ∧
    ∃ v, s.res.var = some v ∧ typeVariant s.layout.typeMap (frameByte s.res.frame s.layout.typePos) = some v
  decoded : 5 ≤ stageNum s.res.stage →
    ∃ v m, s.res.var = some v ∧ channelValid s.res.channel = true ∧
      moisture (fieldLayout s.layout v).mstMode (moistureRaw (fieldLayout s.layout v) s.res.frame) = some m ∧
      s.res = fieldResults s.layout (fieldLayout s.layout v) m s.res
  shows : ShowsStagesRun s.layout s.res

/-- The invariant of the machine: LAYOUT is well-formed; BUF is in canonical form and within its capacity; FRAME has `L`
bytes; CLASS is the class of RESULT; DONE is 0 while BUSY = 1; during reset every register holds its reset value; STAGE is
sound, and the registers show exactly the stages that ran. -/
structure State.Inv (s : State) : Prop where
  layout : layoutWf s.layout = true
  bufWf : s.buf.wf = true
  bufBound : ∀ c ∈ s.buf, c.1 < s.layout.capBits / 8
  frameLen : s.res.frame.length = s.layout.frameLen
  cls : s.cls = classOf s.result
  busyDone : s.busy = true → s.done = false
  reset : s.inReset = true → s.toResetValues = s
  stage : StageSound s

/-- The schedule in which the running command's completion comes next (spec/44_control.md R241: it may come at any point
after GO). -/
def State.coreNext (s : State) : State :=
  { s with tape := .core :: s.tape }

/-- What a GO write of command `code` and its completion with code `rc`, class `cl` and registers `r` leave, spelled out
(spec/44_control.md R240, R241): CTRL's fields, CUR, BUSY, DONE, RESULT, CLASS, LAST_CMD and the result registers; every
other field is `s`'s. That CUR keeps the code once idle is the model's (log 8). -/
def State.completed (s : State) (code : Nibble) (ie verbose : Bool) (rc : ResultCode) (cl : ResultClass) (r : Results) : State :=
  { s with ctrl := ⟨code, ie, verbose⟩, cur := code, busy := false, done := true, result := rc, cls := cl, lastCmd := code,
           res := r }

/-- What a GO write of command `code` leaves (spec/44_control.md R240), spelled out. -/
def State.started (s : State) (code : Nibble) (ie verbose : Bool) : State :=
  { s with ctrl := ⟨code, ie, verbose⟩, cur := code, busy := true, done := false }

/-- `RUN` of one command (spec/30_encoding.md R110) in the schedule where its completion comes next. -/
def runOne (i : Instr) (s : State) : Option State :=
  match exec i s with
  | .next s1 =>
    match step s1.coreNext with
    | .next t => some t
    | .fault _ => none
    | .refused _ => none
  | .fault _ => none
  | .refused _ => none

/-- `RUN` of each command in turn, starting each one only if the one before it gave OK (spec/44_control.md R247). -/
def runChain : List Instr → State → Option State
  | [], s => some s
  | i :: is, s =>
    match runOne i s with
    | none => none
    | some t => if t.result = .ok then runChain is t else some t

/-- A block that a GO write starts and that then completes: built from a well-formed LAYOUT, not in reset, idle. -/
structure ReadyForGo (s : State) : Prop where
  layout : layoutWf s.layout = true
  noReset : s.inReset = false
  idle : s.busy = false

/-- The next step completes the running command. -/
def State.completesNow (s : State) : Prop :=
  s.busy = true ∧ s.inReset = false ∧ (s.tape = [] ∨ ∃ rest, s.tape = .core :: rest)

/-- The next step is a change of the reset input. -/
def State.resetsNow (s : State) : Prop :=
  ∃ asserted rest, s.tape = .resetInput asserted :: rest

/-- The next step is a bus write of `v` that reaches register word `k` (the byte offset over 4) of a block that is not in
reset. -/
def State.writesNow (s : State) (k : Nat) (v : Word) : Prop :=
  s.inReset = false ∧ ∃ addr rest, s.tape = .write addr v :: rest ∧ (addr.extractLsb' 2 9).toNat = k

/-- A move of the host (spec/10_state.md R30): neither the core's nor the reset input's. -/
def Move.isHost : Move → Bool
  | .write _ _ => true
  | .read _ => true
  | .poll _ _ _ => true
  | .expect _ _ _ => true
  | .core => false
  | .resetInput _ => false

/-- A run is safe when it only ever answers next states and keeps the invariant. -/
def SafeFrom (s : State) : Prop :=
  ∀ k, ∃ t, Host.Core.run Sys2Proof.core k s = .next t ∧ State.Inv t

end Sys2Proof.Machine
end

