-- ==== Sys2Proof/Certificates/Slice0/Obligations.lean ====
section
/-! DEFINITION. The statements for the provers, each with the rule of spec/ it formalises. -/

open Sys2Proof Sys2Proof.Machine

/-! Encoding. -/

/-- R100, R104, R111: the decoder gives back every well-formed instruction from its CTRL word, every operand at every value
the encoding admits. -/
def Obligations.EncodedInstructionDecodesBack : Prop :=
  ∀ i : Instr, i.wf = true → decode (encode i) = i

/-- R104 and spec/opcode_table.json: every word is a word of exactly one row of the table, and it is the row of the
instruction the decoder reads. -/
def Obligations.EveryWordSelectsExactlyOneRow : Prop :=
  opcodeRows.length = 11 ∧
  ∀ (w : Word) (k : Nat) (hk : k < opcodeRows.length),
    rowMatches w (opcodeRows[k]) = true ↔ (decode w).row = k

/-- R106: the reserved CTRL bits [7:6] and [31:10] read as 0, and a word with any of them set decodes as the same word with
them cleared. -/
def Obligations.ReservedCtrlBitsAreIgnored : Prop :=
  (∀ w m : Word, decode (w ||| (m &&& 0xFFFFFCC0#32)) = decode (w &&& ~~~0xFFFFFCC0#32)) ∧
  (∀ s : State, ctrlWord s &&& 0xFFFFFCC0#32 = 0)

/-- R111 (which the spec marks derived): the encoding of a command line is the CTRL word it writes, with the rule's three
examples. -/
def Obligations.CommandLinesEncodeAsTheirCtrlWord : Prop :=
  (∀ ie : Bool,
    cmdOp .nop ie = .wr 0 (encode (.nop ie false)) ∧ cmdOp .decode ie = .wr 0 (encode (.decode ie false)) ∧
    cmdOp .sync ie = .wr 0 (encode (.sync ie false)) ∧ cmdOp .extract ie = .wr 0 (encode (.extract ie false)) ∧
    cmdOp .verify ie = .wr 0 (encode (.verify ie false)) ∧ cmdOp .dispatch ie = .wr 0 (encode (.dispatch ie false)) ∧
    cmdOp .fields ie = .wr 0 (encode (.fields ie false)) ∧ cmdOp .clear ie = .wr 0 (encode (.clear ie false))) ∧
  cmdOp .decode false = .wr 0 0x00000011#32 ∧ cmdOp .verify false = .wr 0 0x00000014#32 ∧
  cmdOp .fields true = .wr 0 0x00000116#32 ∧
  decode 0x00000011#32 = .decode false false ∧ decode 0x00000014#32 = .verify false false ∧
  decode 0x00000116#32 = .fields true false

/-- R110: the expansion of every pseudo-instruction. Digit `k` of word `w` of LOADBITS is hex digit `8w + k`, or 0 past the
string's end, and the length is written last. -/
def Obligations.PseudoInstructionsExpandAsListed : Prop :=
  (∀ name, (PseudoOp.cmd name false).expand = [.wr 0x000#32 (0x10#32 + commandCode name)]) ∧
  (∀ name, (PseudoOp.cmd name true).expand = [.wr 0x000#32 (0x110#32 + commandCode name)]) ∧
  PseudoOp.wait.expand = [.poll 0x004#32 0x3#32 0x2#32] ∧
  (∀ name, (PseudoOp.run name).expand = (PseudoOp.cmd name false).expand ++ PseudoOp.wait.expand) ∧
  PseudoOp.ack.expand = [.wr 0x000#32 0x20#32] ∧
  (∀ n, (PseudoOp.setLen n).expand = [.wr 0x008#32 n]) ∧
  (∀ w imm, (PseudoOp.load w imm).expand = [.wr (0x400#32 + 4#32 * BitVec.ofNat 32 w) imm]) ∧
  (∀ hex n, ∃ words : List HostOp, (PseudoOp.loadBits hex n).expand = words ++ [.wr 0x008#32 (BitVec.ofNat 32 n)] ∧
    words.length = (n + 31) / 32 ∧
    ∀ w, w < (n + 31) / 32 → ∃ v : Word, words[w]? = some (.wr (0x400#32 + 4#32 * BitVec.ofNat 32 w) v) ∧
      ∀ k, k < 8 → v.extractLsb' (28 - 4 * k) 4 = hex.getD (8 * w + k) 0)

/-! The step. -/

/-- R70, R71, R100: a write that reaches offset 0x000 runs the decoded word; with the word of a well-formed instruction it
runs that instruction. The step adds only that the move is taken off the tape. -/
def Obligations.StepRunsTheDecodedCtrlWrite : Prop :=
  ∀ (s : State) (addr w : Word) (rest : List Move),
    layoutWf s.layout = true → s.inReset = false → s.tape = .write addr w :: rest → addr.extractLsb' 2 9 = 0 →
    step s = exec (decode w) { s with tape := rest } ∧
    ∀ i : Instr, i.wf = true → w = encode i → step s = exec i { s with tape := rest }

/-- R240: a GO write while idle stores CMD, IE and VERBOSE, latches CUR, sets BUSY and clears DONE, and no other state
changes, for each of the nine GO rows. -/
def Obligations.GoWriteStartsItsCommand : Prop :=
  ∀ (s : State) (ie vb : Bool), s.busy = false →
    exec (.nop ie vb) s = .next (s.started 0x0 ie vb) ∧
    exec (.decode ie vb) s = .next (s.started 0x1 ie vb) ∧
    exec (.sync ie vb) s = .next (s.started 0x2 ie vb) ∧
    exec (.extract ie vb) s = .next (s.started 0x3 ie vb) ∧
    exec (.verify ie vb) s = .next (s.started 0x4 ie vb) ∧
    exec (.dispatch ie vb) s = .next (s.started 0x5 ie vb) ∧
    exec (.fields ie vb) s = .next (s.started 0x6 ie vb) ∧
    exec (.clear ie vb) s = .next (s.started 0x7 ie vb) ∧
    ∀ code, (Instr.reserved code ie vb).wf = true → exec (.reserved code ie vb) s = .next (s.started code ie vb)

/-- R81, R101: a GO write while BUSY = 1 sets OVR and changes nothing else, for each of the nine GO rows. -/
def Obligations.GoWriteWhileBusyIsLost : Prop :=
  ∀ (s : State) (ie vb : Bool), s.busy = true →
    exec (.nop ie vb) s = .next { s with ovr := true } ∧
    exec (.decode ie vb) s = .next { s with ovr := true } ∧
    exec (.sync ie vb) s = .next { s with ovr := true } ∧
    exec (.extract ie vb) s = .next { s with ovr := true } ∧
    exec (.verify ie vb) s = .next { s with ovr := true } ∧
    exec (.dispatch ie vb) s = .next { s with ovr := true } ∧
    exec (.fields ie vb) s = .next { s with ovr := true } ∧
    exec (.clear ie vb) s = .next { s with ovr := true } ∧
    ∀ code, exec (.reserved code ie vb) s = .next { s with ovr := true }

/-- R81: while BUSY = 1 an input write and a CTRL write with GO = 1 store nothing, start nothing and set OVR; a CTRL write
with GO = 0 updates CMD, IE and VERBOSE and its ACK bit is ignored. -/
def Obligations.WritesWhileBusyAreLost : Prop :=
  ∀ (s : State) (addr v : Word) (rest : List Move),
    layoutWf s.layout = true → s.inReset = false → s.busy = true → s.tape = .write addr v :: rest →
    ((addr.extractLsb' 2 9).toNat = 2 → step s = .next { s with ovr := true, tape := rest }) ∧
    (∀ w, w < s.layout.capBits / 32 → (addr.extractLsb' 2 9).toNat = 256 + w →
      step s = .next { s with ovr := true, tape := rest }) ∧
    ((addr.extractLsb' 2 9).toNat = 0 → v.getLsbD 4 = true → step s = .next { s with ovr := true, tape := rest }) ∧
    ((addr.extractLsb' 2 9).toNat = 0 → v.getLsbD 4 = false →
      step s = .next { s with ctrl := ⟨v.extractLsb' 0 4, v.getLsbD 8, v.getLsbD 9⟩, tape := rest })

/-- R102: ACK stores CMD, IE and VERBOSE and, while idle, clears DONE; no other state changes. -/
def Obligations.AckStoresFieldsAndClearsDone : Prop :=
  ∀ (s : State) (cmd : Nibble) (ie vb : Bool),
    (s.busy = false → exec (.ack cmd ie vb) s = .next { s with ctrl := ⟨cmd, ie, vb⟩, done := false }) ∧
    (s.busy = true → exec (.ack cmd ie vb) s = .next { s with ctrl := ⟨cmd, ie, vb⟩ })

/-- R103: SETCTRL stores CMD, IE and VERBOSE and changes nothing else, whatever BUSY is; one that sets IE while DONE = 1
raises irq at once. -/
def Obligations.SetctrlStoresItsFields : Prop :=
  ∀ (s : State) (cmd : Nibble) (ie vb : Bool),
    exec (.setctrl cmd ie vb) s = .next { s with ctrl := ⟨cmd, ie, vb⟩ } ∧
    (s.done = true → ie = true → ∀ t, exec (.setctrl cmd ie vb) s = .next t → irq t = true)

/-- R32, R47, spec/20_memory.md R81: the frame of every CTRL write. CTRL, BUSY, DONE, OVR and CUR may change; every other
register, every result and every byte of BUF is unchanged, and OVR is never cleared. -/
def Obligations.CtrlWriteFrame : Prop :=
  ∀ (i : Instr) (s t : State), exec i s = .next t →
    t = { s with ctrl := t.ctrl, busy := t.busy, done := t.done, ovr := t.ovr, cur := t.cur } ∧
    (s.ovr = true → t.ovr = true) ∧ (∀ b, bufByte t b = bufByte s b)

/-! Each command, from its GO write to its completion. -/

/-- R242, R240, R241: NOP completes with OK and writes nothing else. That CUR keeps the code once the block is idle is the
model's choice (log 8). -/
def Obligations.NopRunsToCompletion : Prop :=
  decode 0x00000010#32 = .nop false false ∧
  ∀ (s : State) (ie vb : Bool), ReadyForGo s →
    exec (.nop ie vb) s = .next (s.started 0x0 ie vb) ∧
    step (s.started 0x0 ie vb).coreNext = .next (s.completed 0x0 ie vb .ok .none s.res)

/-- R244, R240, R241: CLEAR clears every result register, STAGE, CRC_OK, CSUM_OK and OVR, completes with OK and changes
nothing else. That CUR keeps the code once the block is idle is the model's choice (log 8). -/
def Obligations.ClearRunsToCompletion : Prop :=
  decode 0x00000017#32 = .clear false false ∧
  ∀ (s : State) (ie vb : Bool), ReadyForGo s →
    exec (.clear ie vb) s = .next (s.started 0x7 ie vb) ∧
    step (s.started 0x7 ie vb).coreNext =
      .next { s.completed 0x7 ie vb .ok .none (Results.cleared s.layout.frameLen) with ovr := false }

/-- R245, R240, R241: a reserved code completes with ILLEGAL_COMMAND, LAST_CMD takes the code, and nothing else changes.
That CUR keeps the code once the block is idle is the model's choice (log 8). -/
def Obligations.ReservedCodeRunsToIllegalCommand : Prop :=
  ∀ (s : State) (code : Nibble) (ie vb : Bool), ReadyForGo s → (Instr.reserved code ie vb).wf = true →
    decode (encode (.reserved code ie vb)) = .reserved code ie vb ∧
    exec (.reserved code ie vb) s = .next (s.started code ie vb) ∧
    step (s.started code ie vb).coreNext = .next (s.completed code ie vb .illegalCommand .hostError s.res) ∧
    resultNum .illegalCommand = 10 ∧ classNum .hostError = 5

/-- R123 with R121, R122, R124, R125: SYNC clears the frame state, checks the row length, and takes the first exact match of
the preamble below LEN. That CUR keeps the code once the block is idle is the model's choice (log 8). -/
def Obligations.SyncRunsToCompletion : Prop :=
  decode 0x00000012#32 = .sync false false ∧
  ∀ (s : State) (ie vb : Bool), ReadyForGo s →
    exec (.sync ie vb) s = .next (s.started 0x2 ie vb) ∧
    (s.layout.capBits < s.rowLen.toNat →
      step (s.started 0x2 ie vb).coreNext =
        .next (s.completed 0x2 ie vb .badRowlen .hostError (Results.cleared s.layout.frameLen))) ∧
    (s.rowLen.toNat ≤ s.layout.capBits → (∀ p, ¬ PreambleAt s s.rowLen.toNat p) →
      step (s.started 0x2 ie vb).coreNext =
        .next (s.completed 0x2 ie vb .notFound .abstain (Results.cleared s.layout.frameLen))) ∧
    (∀ p, s.rowLen.toNat ≤ s.layout.capBits → FirstPreambleAt s s.rowLen.toNat p →
      step (s.started 0x2 ie vb).coreNext =
        .next (s.completed 0x2 ie vb .ok .none
          { Results.cleared s.layout.frameLen with syncOff := BitVec.ofNat 16 (p + s.layout.preLen), stage := .synced }))

/-- R132 with R130, R131, R246: EXTRACT needs STAGE = 1 and `LEN >= OFF + 8L`, and copies the `L` bytes from bit OFF, most
significant bit first. That CUR keeps the code once the block is idle is the model's choice (log 8). -/
def Obligations.ExtractRunsToCompletion : Prop :=
  decode 0x00000013#32 = .extract false false ∧
  ∀ (s : State) (ie vb : Bool), ReadyForGo s →
    exec (.extract ie vb) s = .next (s.started 0x3 ie vb) ∧
    (s.res.stage ≠ .synced →
      step (s.started 0x3 ie vb).coreNext = .next (s.completed 0x3 ie vb .sequenceError .hostError s.res)) ∧
    (s.res.stage = .synced → s.rowLen.toNat < s.res.syncOff.toNat + 8 * s.layout.frameLen →
      step (s.started 0x3 ie vb).coreNext = .next (s.completed 0x3 ie vb .insufficientLength .abortLength s.res)) ∧
    (s.res.stage = .synced → s.res.syncOff.toNat + 8 * s.layout.frameLen ≤ s.rowLen.toNat →
      ∃ f, IsFrameAt s s.res.syncOff.toNat f ∧
        step (s.started 0x3 ie vb).coreNext =
          .next (s.completed 0x3 ie vb .ok .none { s.res with frame := f, stage := .extracted }))

/-- R154 with R151, R152, R155, R246: VERIFY needs STAGE = 2, always computes and writes both checks, reports the CRC first,
and advances STAGE only if both pass. That CUR keeps the code once the block is idle is the model's choice (log 8). -/
def Obligations.VerifyRunsToCompletion : Prop :=
  decode 0x00000014#32 = .verify false false ∧
  ∀ (s : State) (ie vb : Bool), ReadyForGo s →
    let P := payload s.layout s.res.frame
    let rx := frameByte s.res.frame s.layout.crcPos ++ frameByte s.res.frame (s.layout.crcPos + 1)
    let csr := frameByte s.res.frame s.layout.csumPos
    let r := { s.res with crcCalc := crc16 P, crcRx := rx, csumCalc := checksum P, csumRx := csr,
                          crcOk := decide (crc16 P = rx), csumOk := decide (checksum P = csr) }
    exec (.verify ie vb) s = .next (s.started 0x4 ie vb) ∧
    (s.res.stage ≠ .extracted →
      step (s.started 0x4 ie vb).coreNext = .next (s.completed 0x4 ie vb .sequenceError .hostError s.res)) ∧
    (s.res.stage = .extracted → crc16 P ≠ rx →
      step (s.started 0x4 ie vb).coreNext = .next (s.completed 0x4 ie vb .crcMismatch .integrityFail r)) ∧
    (s.res.stage = .extracted → crc16 P = rx → checksum P ≠ csr →
      step (s.started 0x4 ie vb).coreNext = .next (s.completed 0x4 ie vb .checksumMismatch .integrityFail r)) ∧
    (s.res.stage = .extracted → crc16 P = rx → checksum P = csr →
      step (s.started 0x4 ie vb).coreNext = .next (s.completed 0x4 ie vb .ok .none { r with stage := .verified }))

/-- R181 with R180, R246: DISPATCH needs STAGE = 3, tests the family before the type, and writes VARIANT as the rule says on
every outcome. Two choices are the model's: CUR keeps the code once the block is idle (log 8), and the first entry of
TYPE_MAP for a type byte wins (log 17). -/
def Obligations.DispatchRunsToCompletion : Prop :=
  decode 0x00000015#32 = .dispatch false false ∧
  ∀ (s : State) (ie vb : Bool), ReadyForGo s →
    let fam := frameByte s.res.frame s.layout.famPos
    let typ := frameByte s.res.frame s.layout.typePos
    exec (.dispatch ie vb) s = .next (s.started 0x5 ie vb) ∧
    (s.res.stage ≠ .verified →
      step (s.started 0x5 ie vb).coreNext = .next (s.completed 0x5 ie vb .sequenceError .hostError s.res)) ∧
    (s.res.stage = .verified → fam ≠ s.layout.famVal →
      step (s.started 0x5 ie vb).coreNext =
        .next (s.completed 0x5 ie vb .unknownFamily .sanityFail { s.res with family := fam, typ := 0, var := none })) ∧
    (s.res.stage = .verified → fam = s.layout.famVal → (∀ v, (typ, v) ∉ s.layout.typeMap) →
      step (s.started 0x5 ie vb).coreNext =
        .next (s.completed 0x5 ie vb .unknownType .sanityFail { s.res with family := fam, typ := typ, var := none })) ∧
    (∀ v, s.res.stage = .verified → fam = s.layout.famVal → s.layout.typeMap.lookup typ = some v →
      step (s.started 0x5 ie vb).coreNext =
        .next (s.completed 0x5 ie vb .ok .none
          { s.res with family := fam, typ := typ, var := some v, stage := .dispatched }))

/-- R212 with R201 to R210: FIELDS needs STAGE = 4, tests the channel and then the moisture index, and writes every reading
register together, or none. `T` is the temperature in tenths of a degree (R205, R206). That CUR keeps the code once the
block is idle is the model's choice (log 8); STAGE = 4 with VAR = NONE, which no rule produces, is left out (log 10). -/
def Obligations.FieldsRunsToCompletion : Prop :=
  decode 0x00000016#32 = .fields false false ∧
  ∀ (s : State) (ie vb : Bool), ReadyForGo s →
    exec (.fields ie vb) s = .next (s.started 0x6 ie vb) ∧
    (s.res.stage ≠ .dispatched →
      step (s.started 0x6 ie vb).coreNext = .next (s.completed 0x6 ie vb .sequenceError .hostError s.res)) ∧
    ∀ v, s.res.stage = .dispatched → s.res.var = some v →
      let G := match v with
        | .soilPercent => s.layout.percent
        | .soilStep16 => s.layout.step16
      let ch := frameNib s.res.frame G.chan
      let raw := 10 * (frameNib s.res.frame ⟨G.mstPos, .hi⟩).toNat + (frameNib s.res.frame ⟨G.mstPos, .lo⟩).toNat
      let sgn := frameBit s.res.frame G.statPos G.signBit
      ((ch.toNat = 0 ∨ 8 ≤ ch.toNat) →
        step (s.started 0x6 ie vb).coreNext = .next (s.completed 0x6 ie vb .channelRange .sanityFail s.res)) ∧
      (1 ≤ ch.toNat → ch.toNat ≤ 7 → G.mstMode = .table → (raw = 0 ∨ 17 ≤ raw) →
        step (s.started 0x6 ie vb).coreNext = .next (s.completed 0x6 ie vb .moistureRange .sanityFail s.res)) ∧
      (∀ (T : Int) (m : Nat), 1 ≤ ch.toNat → ch.toNat ≤ 7 →
        (sgn = false → T = 100 * ((frameNib s.res.frame ⟨G.t0Pos, .hi⟩).toNat : Int) +
          10 * ((frameNib s.res.frame ⟨G.t0Pos, .lo⟩).toNat : Int) + ((frameNib s.res.frame ⟨G.t1Pos, .hi⟩).toNat : Int)) →
        (sgn = true → T = -(10 * ((frameNib s.res.frame G.negA).toNat : Int) + ((frameNib s.res.frame G.negB).toNat : Int))) →
        ((G.mstMode = .direct ∧ m = raw) ∨
          (G.mstMode = .table ∧ 1 ≤ raw ∧ raw ≤ 16 ∧ moistureTable[raw - 1]? = some m)) →
        step (s.started 0x6 ie vb).coreNext =
          .next (s.completed 0x6 ie vb .ok .none
            { s.res with channel := ch, battOk := frameBit s.res.frame G.statPos G.battBit, sign := sgn,
                         temp := BitVec.ofInt 16 T, moist := BitVec.ofNat 8 m, mraw := BitVec.ofNat 8 raw,
                         id0 := idWord s.layout s.res.frame 0, id1 := idWord s.layout s.res.frame 4, stage := .decoded }))

/-- R243, R274: DECODE runs the five bodies in order from the per-frame clear and ends at the first failure: the row length,
the search, the length, the CRC, the checksum, the family, the type, the channel, the moisture index. `r1` holds the
registers after SYNC's body, `r2` after EXTRACT's, `r3` after VERIFY's, `r4` after DISPATCH's. Two choices are the model's: CUR keeps
the code once the block is idle (log 8), and the first entry of TYPE_MAP for a type byte wins (log 17). -/
def Obligations.DecodeRunsThePipelineInOrder : Prop :=
  decode 0x00000011#32 = .decode false false ∧
  ∀ (s : State) (ie vb : Bool), ReadyForGo s →
    let z := Results.cleared s.layout.frameLen
    let after := step (s.started 0x1 ie vb).coreNext
    let ends := fun (rc : ResultCode) (cl : ResultClass) (r : Results) => after = .next (s.completed 0x1 ie vb rc cl r)
    exec (.decode ie vb) s = .next (s.started 0x1 ie vb) ∧
    (s.layout.capBits < s.rowLen.toNat → ends .badRowlen .hostError z) ∧
    (s.rowLen.toNat ≤ s.layout.capBits → (∀ p, ¬ PreambleAt s s.rowLen.toNat p) → ends .notFound .abstain z) ∧
    ∀ p, s.rowLen.toNat ≤ s.layout.capBits → FirstPreambleAt s s.rowLen.toNat p →
      let off := p + s.layout.preLen
      let r1 := { z with syncOff := BitVec.ofNat 16 off, stage := .synced }
      (s.rowLen.toNat < off + 8 * s.layout.frameLen → ends .insufficientLength .abortLength r1) ∧
      ∀ f, off + 8 * s.layout.frameLen ≤ s.rowLen.toNat → IsFrameAt s off f →
        let r2 := { r1 with frame := f, stage := .extracted }
        let v2 := verifyResults s.layout r2
        (crc16 (payload s.layout f) ≠ crcReceived s.layout f → ends .crcMismatch .integrityFail v2) ∧
        (crc16 (payload s.layout f) = crcReceived s.layout f → checksum (payload s.layout f) ≠ csumReceived s.layout f →
          ends .checksumMismatch .integrityFail v2) ∧
        (IntegrityPasses s.layout f →
          let r3 := { v2 with stage := .verified }
          let fam := frameByte f s.layout.famPos
          let typ := frameByte f s.layout.typePos
          (fam ≠ s.layout.famVal → ends .unknownFamily .sanityFail { r3 with family := fam }) ∧
          (fam = s.layout.famVal → typeVariant s.layout.typeMap typ = none →
            ends .unknownType .sanityFail { r3 with family := fam, typ := typ }) ∧
          ∀ v, fam = s.layout.famVal → typeVariant s.layout.typeMap typ = some v →
            let r4 := { r3 with family := fam, typ := typ, var := some v, stage := .dispatched }
            let G := fieldLayout s.layout v
            (channelValid (frameNib f G.chan) = false → ends .channelRange .sanityFail r4) ∧
            (channelValid (frameNib f G.chan) = true → moisture G.mstMode (moistureRaw G f) = none →
              ends .moistureRange .sanityFail r4) ∧
            ∀ m, channelValid (frameNib f G.chan) = true → moisture G.mstMode (moistureRaw G f) = some m →
              ends .ok .none (fieldResults s.layout G m r4))

/-- R247 (which the spec marks derived): running SYNC, EXTRACT, VERIFY, DISPATCH and FIELDS, each only if the one before gave OK, leaves what RUN DECODE
leaves, apart from LAST_CMD. CTRL.CMD and the core-internal CUR hold the last code as well and differ too: that reading of
'every register except STATUS.LAST_CMD' is the model's (log 14), and so is CUR's value once the block is idle (log 8). -/
def Obligations.StepwiseRunEqualsDecode : Prop :=
  ∀ s : State, ReadyForGo s →
    ∃ t d, runChain [.sync false false, .extract false false, .verify false false, .dispatch false false,
        .fields false false] s = some t ∧ runOne (.decode false false) s = some d ∧
      d = { t with lastCmd := 0x1, ctrl := ⟨0x1, false, false⟩, cur := 0x1 }

/-- R243: running DECODE twice on the same input gives the same state. The equality takes in CUR, whose value once the block is
idle is the model's choice (log 8). -/
def Obligations.DecodeTwiceGivesTheSameState : Prop :=
  ∀ (s : State) (ie vb : Bool), ReadyForGo s →
    ∃ t, runOne (.decode ie vb) s = some t ∧ runOne (.decode ie vb) t = some t

/-- R46 (which the spec marks derived), R243: DECODE's outcome depends only on BUF bits `0..LEN-1`, LEN and LAYOUT, never on earlier commands, on bits past
LEN or on what BUF held at power-up. -/
def Obligations.DecodeDependsOnlyOnItsInput : Prop :=
  ∀ (s s' : State) (ie vb : Bool), ReadyForGo s → ReadyForGo s' → s.layout = s'.layout → s.rowLen = s'.rowLen →
    (∀ i, i < s.rowLen.toNat → bufBit s i = bufBit s' i) →
    ∃ t t', runOne (.decode ie vb) s = some t ∧ runOne (.decode ie vb) s' = some t' ∧
      t.res = t'.res ∧ t.result = t'.result ∧ t.cls = t'.cls ∧ t.lastCmd = t'.lastCmd

/-- R273 (which the spec marks derived): each command's completion gives only the codes the table lists for it. -/
def Obligations.CompletionsGiveOnlyTheirCodes : Prop :=
  ∀ s t : State, s.completesNow → step s = .next t →
    (s.cur = 0x0 → t.result = .ok) ∧
    (s.cur = 0x1 → t.result ∈ [ResultCode.ok, .notFound, .insufficientLength, .crcMismatch, .checksumMismatch,
      .unknownFamily, .unknownType, .channelRange, .moistureRange, .badRowlen]) ∧
    (s.cur = 0x2 → t.result ∈ [ResultCode.ok, .notFound, .badRowlen]) ∧
    (s.cur = 0x3 → t.result ∈ [ResultCode.ok, .insufficientLength, .sequenceError]) ∧
    (s.cur = 0x4 → t.result ∈ [ResultCode.ok, .crcMismatch, .checksumMismatch, .sequenceError]) ∧
    (s.cur = 0x5 → t.result ∈ [ResultCode.ok, .unknownFamily, .unknownType, .sequenceError]) ∧
    (s.cur = 0x6 → t.result ∈ [ResultCode.ok, .channelRange, .moistureRange, .sequenceError]) ∧
    (s.cur = 0x7 → t.result = .ok) ∧
    (8 ≤ s.cur.toNat → t.result = .illegalCommand)

/-- R241: the completion clears BUSY, sets DONE, takes LAST_CMD from CUR and CLASS from the code, and commits only result
registers beside them (CLEAR also clears OVR); CTRL, ROW_LEN, LAYOUT and every byte of BUF are unchanged. That CUR
is unchanged too is the model's choice (log 8). -/
def Obligations.CompletionFrame : Prop :=
  ∀ s t : State, s.completesNow → step s = .next t →
    t.busy = false ∧ t.done = true ∧ t.lastCmd = s.cur ∧ t.cls = classOf t.result ∧
    t = { s with res := t.res, result := t.result, cls := t.cls, lastCmd := t.lastCmd, busy := t.busy, done := t.done,
                 ovr := t.ovr, tape := s.tape.tail } ∧
    (t.ovr = s.ovr ∨ (s.cur = 0x7 ∧ t.ovr = false)) ∧ (∀ b, bufByte t b = bufByte s b)

/-! The bus. -/

/-- R80: an input write while idle stores its value and sets STAGE to 0; ROW_LEN takes the low 16 bits, a BUF word its four
bytes big-endian, every other byte of BUF and every other register is unchanged, and RV reads 0. -/
def Obligations.InputWriteStoresAndResetsStage : Prop :=
  ∀ (s : State) (addr v : Word) (rest : List Move),
    layoutWf s.layout = true → s.inReset = false → s.busy = false → s.tape = .write addr v :: rest →
    ((addr.extractLsb' 2 9).toNat = 2 →
      step s = .next { s with rowLen := v.extractLsb' 0 16, res := { s.res with stage := .none }, tape := rest }) ∧
    (∀ w, w < s.layout.capBits / 32 → (addr.extractLsb' 2 9).toNat = 256 + w →
      ∃ t, step s = .next t ∧
        t = { s with buf := t.buf, res := { s.res with stage := .none }, tape := rest } ∧
        (∀ j, j < 4 → bufByte t (4 * w + j) = v.extractLsb' (24 - 8 * j) 8) ∧
        (∀ b, b < 4 * w ∨ 4 * w + 4 ≤ b → bufByte t b = bufByte s b) ∧ readingValid t.res = false)

/-- R76: buffer bit `i` is bit `31 - (i mod 32)` of word `i >> 5`; a BUF-window read returns the word, and a write followed by
a read returns the word written; at and past word `CAP_BITS/32` reads return 0 and writes are ignored. -/
def Obligations.BufWindowIsOneBitStream : Prop :=
  (∀ (s : State) (i : Nat), bufBit s i = (bufWord s (i / 32)).getLsbD (31 - i % 32)) ∧
  (∀ (s : State) (w j : Nat), j < 4 → bufByte s (4 * w + j) = (bufWord s w).extractLsb' (24 - 8 * j) 8) ∧
  ∀ (s : State) (addr : Word) (w : Nat), layoutWf s.layout = true → s.inReset = false →
    (addr.extractLsb' 2 9).toNat = 256 + w →
    (w < s.layout.capBits / 32 → memRead s addr = bufWord s w ∧
      (s.busy = false → ∀ (v : Word) (rest : List Move), s.tape = .write addr v :: rest →
        ∃ t, step s = .next t ∧ memRead t addr = v)) ∧
    (s.layout.capBits / 32 ≤ w → memRead s addr = 0 ∧
      ∀ (v : Word) (rest : List Move), s.tape = .write addr v :: rest → step s = .next { s with tape := rest })

/-- R73: a write to a read-only register or a reserved offset changes no state and does not set OVR, a read of a reserved
offset returns 0, and no write raises a bus error. -/
def Obligations.ReservedAndReadOnlyOffsets : Prop :=
  (∀ (s : State) (addr v : Word) (rest : List Move), layoutWf s.layout = true → s.tape = .write addr v :: rest →
    (addr.extractLsb' 2 9).toNat ≠ 0 → (addr.extractLsb' 2 9).toNat ≠ 2 → (addr.extractLsb' 2 9).toNat < 256 →
    step s = .next { s with tape := rest }) ∧
  (∀ (s : State) (addr : Word), ((addr.extractLsb' 2 9).toNat = 11 ∨ (addr.extractLsb' 2 9).toNat = 14 ∨
      (addr.extractLsb' 2 9).toNat = 15 ∨ (32 ≤ (addr.extractLsb' 2 9).toNat ∧ (addr.extractLsb' 2 9).toNat < 256)) →
    memRead s addr = 0) ∧
  (∀ (s : State) (addr v : Word), ∃ t, memWrite addr v s = .next t)

/-- R74: a read changes no state of the block (its data go to the model's `rdata`, log 6, and it is taken off the tape), so the same read again returns
the same value. -/
def Obligations.ReadsHaveNoSideEffect : Prop :=
  ∀ (s : State) (addr : Word) (rest : List Move), layoutWf s.layout = true → s.tape = .read addr :: rest →
    ∃ t, step s = .next t ∧ t = { s with tape := rest, rdata := memRead s addr } ∧ memRead t addr = memRead s addr ∧
      ∀ addr', memRead t addr' = memRead s addr'

/-- R109: POLL reads, and goes on when the masked value is the one it waits for; otherwise the core has its move and the POLL
is made again. EXPECT reads and notes whether the masked value is the one expected. That a failed POLL leaves the core
exactly one move, and where the verdict stands, is the model's (log 7). -/
def Obligations.PollAndExpectReadAndTest : Prop :=
  ∀ (s : State) (addr mask val : Word) (rest : List Move), layoutWf s.layout = true →
    (s.tape = .poll addr mask val :: rest → memRead s addr &&& mask = val →
      step s = .next { s with tape := rest, rdata := memRead s addr }) ∧
    (s.tape = .poll addr mask val :: rest → memRead s addr &&& mask ≠ val →
      step s = .next { s with tape := .core :: .poll addr mask val :: rest, rdata := memRead s addr }) ∧
    (s.tape = .expect addr mask val :: rest →
      step s = .next { s with tape := rest, rdata := memRead s addr,
                              hostOk := s.hostOk && decide (memRead s addr &&& mask = val) })

/-- R70, R71: address bits [1:0] and the bits above 10 do not matter. -/
def Obligations.OnlyAddressBits10To2Matter : Prop :=
  ∀ (s : State) (a b v : Word), a.extractLsb' 2 9 = b.extractLsb' 2 9 →
    memRead s a = memRead s b ∧ memWrite a v s = memWrite b v s

/-- R33: every field of STATUS at its bits, the reserved bits 0, as a read of offset 0x004 returns it. -/
def Obligations.StatusWordCarriesItsFields : Prop :=
  ∀ s : State,
    (s.inReset = false → memRead s 0x004#32 = statusWord s) ∧
    (statusWord s).getLsbD 0 = s.busy ∧ (statusWord s).getLsbD 1 = s.done ∧ (statusWord s).getLsbD 2 = s.ovr ∧
    (statusWord s).getLsbD 3 = (s.done && s.ctrl.ie) ∧
    ((statusWord s).extractLsb' 4 4).toNat = resultNum s.result ∧
    ((statusWord s).extractLsb' 8 3).toNat = classNum s.cls ∧ (statusWord s).getLsbD 11 = false ∧
    ((statusWord s).extractLsb' 12 3).toNat = stageNum s.res.stage ∧ (statusWord s).getLsbD 15 = false ∧
    (statusWord s).getLsbD 16 = s.res.crcOk ∧ (statusWord s).getLsbD 17 = s.res.csumOk ∧
    (statusWord s).getLsbD 18 = decide (s.res.stage = .decoded) ∧ (statusWord s).getLsbD 19 = false ∧
    (statusWord s).extractLsb' 20 4 = s.lastCmd ∧ (statusWord s).extractLsb' 24 8 = 0

/-- R32, R34, R35, R38 to R43: every field of CTRL, ROW_LEN and the result registers at its bits, the reserved bits 0, as a
read of each offset of R72 returns it. -/
def Obligations.RegisterWordsCarryTheirFields : Prop :=
  ∀ s : State, s.inReset = false →
    (let w := memRead s 0x000#32
     w.extractLsb' 0 4 = s.ctrl.cmd ∧ w.extractLsb' 4 4 = 0 ∧ w.getLsbD 8 = s.ctrl.ie ∧ w.getLsbD 9 = s.ctrl.verbose ∧
       w.extractLsb' 10 22 = 0) ∧
    (let w := memRead s 0x008#32; w.extractLsb' 0 16 = s.rowLen ∧ w.extractLsb' 16 16 = 0) ∧
    (let w := memRead s 0x00C#32; w.extractLsb' 0 16 = s.res.syncOff ∧ w.extractLsb' 16 16 = 0) ∧
    (let w := memRead s 0x010#32; w.extractLsb' 0 16 = s.res.crcCalc ∧ w.extractLsb' 16 16 = s.res.crcRx) ∧
    (let w := memRead s 0x014#32
     w.extractLsb' 0 8 = s.res.csumCalc ∧ w.extractLsb' 8 8 = s.res.csumRx ∧ w.extractLsb' 16 16 = 0) ∧
    (let w := memRead s 0x018#32
     (w.extractLsb' 0 2).toNat = variantNum s.res.var ∧ w.extractLsb' 2 6 = 0 ∧ w.extractLsb' 8 8 = s.res.family ∧
       w.extractLsb' 16 8 = s.res.typ ∧ w.extractLsb' 24 8 = 0) ∧
    (let w := memRead s 0x01C#32
     w.extractLsb' 0 4 = s.res.channel ∧ w.getLsbD 4 = s.res.battOk ∧ w.getLsbD 5 = s.res.sign ∧
       w.extractLsb' 6 10 = 0 ∧ w.extractLsb' 16 16 = s.res.temp) ∧
    (let w := memRead s 0x020#32
     w.extractLsb' 0 8 = s.res.moist ∧ w.extractLsb' 8 8 = s.res.mraw ∧ w.extractLsb' 16 16 = 0) ∧
    memRead s 0x024#32 = s.res.id0 ∧ memRead s 0x028#32 = s.res.id1

/-- R77, R78: byte `j` of FRAME window word `w` is `F[4w+j]` below `L` and 0 at and past it; identifier byte `j` stands in ID0
or ID1 with the first byte in ID0[31:24] and unused lanes 0. -/
def Obligations.FrameAndIdentifierWindows : Prop :=
  (∀ (s : State) (addr : Word) (w j : Nat), s.inReset = false → w < 16 → j < 4 →
    (addr.extractLsb' 2 9).toNat = 16 + w →
    (memRead s addr).extractLsb' (24 - 8 * j) 8 =
      if 4 * w + j < s.layout.frameLen then frameByte s.res.frame (4 * w + j) else 0) ∧
  (∀ (lay : Layout) (f : List Byte) (j : Nat), j < 4 →
    (idWord lay f 0).extractLsb' (24 - 8 * j) 8 = (if j < lay.idLen then frameByte f (lay.idPos + j) else 0) ∧
    (idWord lay f 4).extractLsb' (24 - 8 * j) 8 = (if j + 4 < lay.idLen then frameByte f (lay.idPos + (j + 4)) else 0))

/-- R44: INFO and PREAMBLE hold build-time parameters, and no step changes what they read. -/
def Obligations.InfoAndPreambleAreConstant : Prop :=
  (∀ s : State, layoutWf s.layout = true → s.inReset = false →
    (let w := memRead s 0x030#32
     (w.extractLsb' 0 8).toNat = s.layout.frameLen ∧ (w.extractLsb' 8 8).toNat = s.layout.preLen ∧
       (w.extractLsb' 16 16).toNat = s.layout.capBits) ∧
    ∀ i, (memRead s 0x034#32).getLsbD i = (decide (i < s.layout.preLen) && s.layout.prePat.getLsbD i)) ∧
  (∀ s t : State, step s = .next t → infoWord t.layout = infoWord s.layout ∧ preambleWord t.layout = preambleWord s.layout ∧
    t.layout = s.layout)

/-! While no command runs, and while one does. -/

/-- R30, R284: the core never acts on its own: with BUSY = 0 its move changes nothing, and with no move left an idle block
holds its state. -/
def Obligations.IdleBlockHoldsItsState : Prop :=
  ∀ s : State, layoutWf s.layout = true → s.busy = false →
    (s.tape = [] → step s = .next s) ∧ (∀ rest, s.tape = .core :: rest → step s = .next { s with tape := rest })

/-- R82, R241: while BUSY = 1 no host move changes a result register, a result field of STATUS, ROW_LEN, BUF or CUR, and the
command keeps running. -/
def Obligations.HostMovesLeaveResultsWhileBusy : Prop :=
  ∀ (s t : State) (m : Move) (rest : List Move), s.busy = true → s.tape = m :: rest → m.isHost = true → step s = .next t →
    t.res = s.res ∧ t.result = s.result ∧ t.cls = s.cls ∧ t.lastCmd = s.lastCmd ∧ t.rowLen = s.rowLen ∧ t.buf = s.buf ∧
    t.cur = s.cur ∧ t.busy = true ∧ t.done = s.done ∧ t.layout = s.layout ∧ t.powerUp = s.powerUp ∧ t.inReset = s.inReset

/-- R305, R308: a host move between GO and completion does not affect the command in flight: it leaves the same results,
result code and input as the completion without it. -/
def Obligations.HostMovesDoNotAffectTheCommandInFlight : Prop :=
  ∀ (s t u v : State) (m : Move), s.busy = true → s.inReset = false → m.isHost = true → s.tape = [] →
    step { s with tape := [m, .core] } = .next t → step { t with tape := [.core] } = .next u →
    step { s with tape := [.core] } = .next v →
    u.res = v.res ∧ u.result = v.result ∧ u.cls = v.cls ∧ u.lastCmd = v.lastCmd ∧ u.rowLen = v.rowLen ∧ u.buf = v.buf

/-- R306: after an input write while idle, EXTRACT, VERIFY, DISPATCH and FIELDS complete with SEQUENCE_ERROR and leave every
result register as it was. -/
def Obligations.InputWriteVoidsTheChain : Prop :=
  ∀ (s : State) (v : Word) (k : Nat), ReadyForGo s → s.writesNow k v →
    (k = 2 ∨ (256 ≤ k ∧ k - 256 < s.layout.capBits / 32)) →
    ∃ t, step s = .next t ∧ t.res.stage = .none ∧
      ∀ i ∈ [Instr.extract false false, .verify false false, .dispatch false false, .fields false false],
        ∃ u, runOne i t = some u ∧ u.result = .sequenceError ∧ u.cls = .hostError ∧ u.res = t.res

/-! Flags, interrupt and reset. -/

/-- R47: what sets and clears each flag, and nothing else does. -/
def Obligations.FlagsChangeOnlyByTheirEvents : Prop :=
  ∀ s t : State, step s = .next t →
    (s.busy = false → t.busy = true → ∃ v, s.writesNow 0 v ∧ v.getLsbD 4 = true) ∧
    (s.busy = true → t.busy = false → s.completesNow ∨ s.resetsNow) ∧
    (s.done = false → t.done = true → s.completesNow) ∧
    (s.done = true → t.done = false →
      (s.busy = false ∧ ∃ v, s.writesNow 0 v ∧ (v.getLsbD 4 = true ∨ v.getLsbD 5 = true)) ∨ s.resetsNow) ∧
    (s.ovr = false → t.ovr = true →
      s.busy = true ∧ ∃ v k, s.writesNow k v ∧ ((k = 0 ∧ v.getLsbD 4 = true) ∨ k = 2 ∨
        (256 ≤ k ∧ k - 256 < s.layout.capBits / 32))) ∧
    (s.ovr = true → t.ovr = false → (s.completesNow ∧ s.cur = 0x7) ∨ s.resetsNow) ∧
    ((t.res.crcOk ≠ s.res.crcOk ∨ t.res.csumOk ≠ s.res.csumOk) →
      (s.completesNow ∧ s.cur ∈ [0x1, 0x2, 0x4, 0x7]) ∨ s.resetsNow) ∧
    (readingValid t.res = true ↔ t.res.stage = .decoded) ∧ irq t = (t.done && t.ctrl.ie)

/-- R279: irq is DONE & IE, also STATUS.IRQ; IE = 0 masks it; ACK, a GO while idle and reset clear it; setting IE while
DONE = 1 asserts it at once. -/
def Obligations.InterruptIsDoneAndEnable : Prop :=
  ∀ s : State,
    irq s = (s.done && s.ctrl.ie) ∧ (statusWord s).getLsbD 3 = irq s ∧ (s.ctrl.ie = false → irq s = false) ∧
    (∀ cmd ie vb t, s.busy = false → exec (.ack cmd ie vb) s = .next t → irq t = false) ∧
    (∀ i t, s.busy = false → (encode i).getLsbD 4 = true → exec i s = .next t → irq t = false) ∧
    (∀ cmd vb t, s.done = true → exec (.setctrl cmd true vb) s = .next t → irq t = true) ∧
    (∀ rest t, s.tape = .resetInput true :: rest → step s = .next t → irq t = false)

/-- R300: when reset is asserted, and when it is deasserted, every register holds its reset value, a running command is
abandoned, and (R301) BUF keeps its contents; while it is asserted writes store nothing, reads return 0, and the core does
nothing. -/
def Obligations.ResetInputHoldsResetValues : Prop :=
  ∀ (s : State) (rest : List Move), layoutWf s.layout = true →
    let r := { s with ctrl := ⟨0, false, false⟩, busy := false, done := false, ovr := false, cur := 0, result := .ok,
                      cls := .none, lastCmd := 0, rowLen := 0, res := Results.cleared s.layout.frameLen, tape := rest }
    (s.tape = .resetInput true :: rest → step s = .next { r with inReset := true }) ∧
    (s.inReset = true → s.tape = .resetInput false :: rest → step s = .next { r with inReset := false }) ∧
    (∀ addr v, s.inReset = true → s.tape = .write addr v :: rest → step s = .next { s with tape := rest }) ∧
    (∀ addr, s.inReset = true → s.tape = .read addr :: rest → step s = .next { s with tape := rest, rdata := 0 }) ∧
    (∀ addr, s.inReset = true → memRead s addr = 0) ∧
    (s.inReset = true → s.tape = .core :: rest → step s = .next { s with tape := rest })

/-- R49: what a block holds right after reset, whatever its LAYOUT and power-up. Two choices are the model's: the reset state is
the block with the reference LAYOUT (log 1), and BUF, which R49 leaves unspecified, lists no byte as written (log 3). -/
def Obligations.ResetStateHoldsTheListedValues : Prop :=
  State.reset = State.resetWith referenceLayout 0 ∧
  ∀ (lay : Layout) (powerUp : Nat),
  let s := State.resetWith lay powerUp
  s.ctrl.cmd = 0 ∧ s.ctrl.ie = false ∧ s.ctrl.verbose = false ∧ s.busy = false ∧ s.done = false ∧ s.ovr = false ∧
  s.res.crcOk = false ∧ s.res.csumOk = false ∧ s.result = .ok ∧ classNum s.cls = 0 ∧ stageNum s.res.stage = 0 ∧
  readingValid s.res = false ∧ s.lastCmd = 0 ∧ s.rowLen = 0 ∧ syncOffWord s.res = 0 ∧ crcWord s.res = 0 ∧
  csumWord s.res = 0 ∧ variantWord s.res = 0 ∧ reading0Word s.res = 0 ∧ reading1Word s.res = 0 ∧ s.res.id0 = 0 ∧
  s.res.id1 = 0 ∧ s.res.frame = List.replicate s.layout.frameLen 0 ∧ s.cur = 0 ∧ irq s = false ∧
  memRead s 0x030#32 = infoWord s.layout ∧ memRead s 0x034#32 = preambleWord s.layout ∧
  ∀ b, s.buf.read b = none

/-- R301, with the free value of log 3: a byte of BUF not written since power-up holds its power-up value, whatever that is, and no step changes a byte of
BUF but an input write of its word: no command, no reset. -/
def Obligations.BufBytesChangeOnlyByInputWrites : Prop :=
  (∀ (s : State) (b : Nat), s.buf.read b = none → bufByte s b = Config.powerUpByte s.powerUp b) ∧
  (∀ (s t : State) (b : Nat), step s = .next t → bufByte t b ≠ bufByte s b →
    s.busy = false ∧ b / 4 < s.layout.capBits / 32 ∧ ∃ v, s.writesNow (256 + b / 4) v) ∧
  (∀ s t : State, step s = .next t → t.powerUp = s.powerUp)

/-! Invariants and whole-machine rules. -/

/-- R33, R45, R46, R270, R275: every step keeps the invariant. With R125 and R132 it says that the registers show exactly the
stages that ran: at STAGE = 1 FRAME, CRC, CSUM, VARIANT and the reading registers are still the zeros of the per-frame clear,
at STAGE = 4 the reading registers are (`ShowsStagesRun`). -/
def Obligations.StepKeepsInvariant : Prop :=
  ∀ s t : State, State.Inv s → step s = .next t → State.Inv t

/-- R8, R49: every block that can be built meets the invariant after reset, with any moves to come, and the reset state is
one. -/
def Obligations.BuiltBlockMeetsInvariant : Prop :=
  (∀ (lay : Layout) (powerUp : Nat) (s : State) (tape : List Move), State.build lay powerUp = some s →
    State.Inv { s with tape := tape }) ∧
  State.build referenceLayout 0 = some State.reset ∧ State.Inv State.reset

/-- R277: no outcome is fatal: a machine that meets the invariant always has a next state. -/
def Obligations.InvariantStateAlwaysSteps : Prop :=
  ∀ s : State, State.Inv s → ∃ t, step s = .next t

/-- R241 (which the spec marks derived where it says that every command completes), R308: unless the reset input abandons it
(R300), a started command completes, whatever the host does: within as many steps as there are moves on the tape and one more
BUSY is 0, DONE is 1 and LAST_CMD is the command. The bound counts the model's moves on a finite schedule whose end is the
completion (log 4); the spec bounds neither time nor accesses. -/
def Obligations.StartedCommandCompletes : Prop :=
  ∀ s : State, State.Inv s → s.busy = true → (∀ asserted, Move.resetInput asserted ∉ s.tape) →
    ∃ k t, k ≤ s.tape.length + 1 ∧ Host.Core.run Sys2Proof.core k s = .next t ∧ t.busy = false ∧ t.done = true ∧
      t.lastCmd = s.cur

/-- R33, R156 (the second marked derived), R246: whatever the host does from reset, a valid reading was decoded from the frame that the current input
holds after its first preamble, and that frame passes the CRC, the checksum, the family and type check and the channel
check: integrity checking cannot be bypassed. -/
def Obligations.ReachableReadingPassedEveryCheck : Prop :=
  ∀ (lay : Layout) (powerUp k : Nat) (tape : List Move) (t : State), layoutWf lay = true →
    Host.Core.run Sys2Proof.core k { State.resetWith lay powerUp with tape := tape } = .next t →
    readingValid t.res = true →
    ∃ p v m, FirstPreambleAt t t.rowLen.toNat p ∧ p + lay.preLen + 8 * lay.frameLen ≤ t.rowLen.toNat ∧
      IsFrameAt t (p + lay.preLen) t.res.frame ∧ IntegrityPasses lay t.res.frame ∧
      frameByte t.res.frame lay.famPos = lay.famVal ∧
      typeVariant lay.typeMap (frameByte t.res.frame lay.typePos) = some v ∧
      1 ≤ t.res.channel.toNat ∧ t.res.channel.toNat ≤ 7 ∧
      moisture (fieldLayout lay v).mstMode (moistureRaw (fieldLayout lay v) t.res.frame) = some m ∧
      t.res = fieldResults lay (fieldLayout lay v) m t.res

/-- R182 (which the spec marks derived): outside STAGE = 3, where DISPATCH selects, only the per-frame clear of SYNC or DECODE,
CLEAR or reset changes VARIANT (VAR, FAMILY or TYPE), and so a selected variant: also after an input write, which sets STAGE
to 0 and keeps VARIANT (R80). -/
def Obligations.SelectedVariantIsFixed : Prop :=
  ∀ s t : State, s.res.stage ≠ .verified → step s = .next t →
    (t.res.var ≠ s.res.var ∨ t.res.family ≠ s.res.family ∨ t.res.typ ≠ s.res.typ) →
    (s.completesNow ∧ s.cur ∈ [0x1, 0x2, 0x7]) ∨ s.resetsNow

/-! The functions. -/

/-- R159 (which the spec marks derived, and general knowledge): the check value. -/
def Obligations.CrcCheckValue : Prop :=
  crc16 [0x31#8, 0x32#8, 0x33#8, 0x34#8, 0x35#8, 0x36#8, 0x37#8, 0x38#8, 0x39#8] = 0x31C3#16

/-- R158 (which the spec marks derived, and for the CRC general knowledge): changing exactly one payload byte of a frame that passes, with the transmitted bytes unchanged, makes both checks
fail. -/
def Obligations.CorruptedPayloadByteFailsBothChecks : Prop :=
  ∀ (lay : Layout) (f g : List Byte) (k : Nat), layoutWf lay = true →
    lay.payStart ≤ k → k ≤ lay.payEnd → k ≠ lay.crcPos → k ≠ lay.crcPos + 1 → k ≠ lay.csumPos →
    frameByte f k ≠ frameByte g k → (∀ j, j ≠ k → frameByte f j = frameByte g j) → IntegrityPasses lay f →
    crc16 (payload lay g) ≠ crcReceived lay g ∧ checksum (payload lay g) ≠ csumReceived lay g

/-- R152, R153 (the second marked derived): the checksum is the sum modulo 256, complemented, and the two other forms of the test hold exactly when it
does. -/
def Obligations.ChecksumFormsAgree : Prop :=
  ∀ (bs : List Byte) (rx : Byte),
    (checksum bs).toNat = 255 - (bs.map BitVec.toNat).sum % 256 ∧
    (checksum bs - rx = 0 ↔ checksum bs = rx) ∧
    (((bs.map BitVec.toNat).sum + rx.toNat) % 256 = 0xFF ↔ checksum bs = rx)

/-- R205, R206, R207, R213: the temperature lies in 0..1665 or -165..0, is recovered from TEMP by sign extension, and a
negative zero is stored as 0. -/
def Obligations.TemperatureIsRecoveredFromTemp : Prop :=
  ∀ (g : FieldLayout) (f : List Byte),
    (frameBit f g.statPos g.signBit = false → 0 ≤ temperature g f ∧ temperature g f ≤ 1665) ∧
    (frameBit f g.statPos g.signBit = true → -165 ≤ temperature g f ∧ temperature g f ≤ 0) ∧
    (BitVec.ofInt 16 (temperature g f)).toInt = temperature g f ∧
    (frameBit f g.statPos g.signBit = true → frameNib f g.negA = 0 → frameNib f g.negB = 0 →
      BitVec.ofInt 16 (temperature g f) = 0)

/-- R210: the sixteen table entries, no entry for any other index, and the bytes 0x0A and 0x10 both giving index 10. -/
def Obligations.MoistureTableMapsEveryIndex : Prop :=
  ((List.range 16).map fun i => moisture .table (i + 1)) =
    [some 0, some 7, some 13, some 20, some 27, some 33, some 40, some 47, some 53, some 60, some 67, some 73, some 80,
     some 87, some 93, some 99] ∧
  moisture .table 0 = none ∧ (∀ raw, 17 ≤ raw → moisture .table raw = none) ∧
  bcd2 0x0 0xA = 10 ∧ bcd2 0x1 0x0 = 10 ∧ moisture .table 10 = some 60

/-- R270: every result code's number and class. -/
def Obligations.ResultCodesAndClasses : Prop :=
  [ResultCode.ok, .notFound, .insufficientLength, .crcMismatch, .checksumMismatch, .unknownFamily, .unknownType,
    .channelRange, .moistureRange, .sequenceError, .illegalCommand, .badRowlen].map
      (fun c => (resultNum c, classNum (classOf c))) =
  [(0, 0), (1, 1), (2, 2), (3, 3), (4, 3), (5, 4), (6, 4), (7, 4), (8, 4), (9, 5), (10, 5), (11, 5)]

/-- R133 (which the spec marks derived): two buffers that hold the same `8L` bits after their match give the same frame, CRC and checksum. -/
def Obligations.FrameIgnoresItsPositionInTheBuffer : Prop :=
  ∀ (s s' : State) (off off' : Nat), s.layout = s'.layout →
    (∀ i, i < 8 * s.layout.frameLen → bufBit s (off + i) = bufBit s' (off' + i)) →
    extractFrame s off = extractFrame s' off' ∧
    crc16 (payload s.layout (extractFrame s off)) = crc16 (payload s'.layout (extractFrame s' off')) ∧
    checksum (payload s.layout (extractFrame s off)) = checksum (payload s'.layout (extractFrame s' off'))

/-- R126 (which the spec marks derived): the search corner cases, for the default pattern: the first matches at 8 and the
search and SYNC give OFF = 32, the second matches at 11 and they give OFF = 35; and no bit at or past LEN is read. -/
def Obligations.SearchCornerCases : Prop :=
  (∀ (s : State) (n : Nat), s.layout.preLen = 24 → s.layout.prePat = 0xAA2DD4#32 →
    (bufWord s 0 = 0xAAAA2DD4#32 → 32 ≤ n → FirstPreambleAt s n 8 ∧ syncSearch s n = some 32) ∧
    (bufWord s 0 = 0x155545BA#32 → bufWord s 1 = 0x80000000#32 → 35 ≤ n →
      FirstPreambleAt s n 11 ∧ syncSearch s n = some 35)) ∧
  (∀ (s : State) (ie vb : Bool), ReadyForGo s → s.layout.preLen = 24 → s.layout.prePat = 0xAA2DD4#32 →
    s.rowLen.toNat ≤ s.layout.capBits →
    (bufWord s 0 = 0xAAAA2DD4#32 → 32 ≤ s.rowLen.toNat →
      ∃ t, runOne (.sync ie vb) s = some t ∧ t.result = .ok ∧ t.res.syncOff = 32) ∧
    (bufWord s 0 = 0x155545BA#32 → bufWord s 1 = 0x80000000#32 → 35 ≤ s.rowLen.toNat →
      ∃ t, runOne (.sync ie vb) s = some t ∧ t.result = .ok ∧ t.res.syncOff = 35)) ∧
  (∀ (s s' : State) (n : Nat), s.layout = s'.layout → (∀ i, i < n → bufBit s i = bufBit s' i) →
    syncSearch s n = syncSearch s' n)

/-- R214 (which the spec marks derived): two frames that agree in every byte a field other than the identifier is read from (so two that differ only in the
identifier bytes, whether or not their check bytes are recomputed) decode to the same channel, battery, sign, temperature and
moisture, and to different identifiers exactly when an identifier byte differs. -/
def Obligations.IdentifierBytesChangeOnlyTheIdentifier : Prop :=
  ∀ (s : State) (r t : Results) (g : List Byte) (v : Variant), layoutWf s.layout = true → r.var = some v →
    let G := fieldLayout s.layout v
    (∀ k ∈ [G.chan.index, G.statPos, G.t0Pos, G.t1Pos, G.negA.index, G.negB.index, G.mstPos],
      frameByte r.frame k = frameByte g k) →
    bodyFields s r = .goOn t →
    ∃ u, bodyFields s { r with frame := g } = .goOn u ∧ u.channel = t.channel ∧ u.battOk = t.battOk ∧ u.sign = t.sign ∧
      u.temp = t.temp ∧ u.mraw = t.mraw ∧ u.moist = t.moist ∧
      ((∃ j, j < s.layout.idLen ∧ frameByte r.frame (s.layout.idPos + j) ≠ frameByte g (s.layout.idPos + j)) ↔
        (u.id0 ≠ t.id0 ∨ u.id1 ≠ t.id1))
end

