-- ==== Sys2Proof/Laws/Decode.lean ====
section
/-! SUPPORT. The fields of a CTRL word made by `ctrlFields`, and what the decoder reads of them (spec/30_encoding.md R100). -/

namespace Sys2Proof

section
variable (c : Nibble) (go ack ie vb : Bool)

theorem ctrlFields_cmd : (ctrlFields c go ack ie vb).extractLsb' 0 4 = c := by
  apply BitVec.eq_of_getLsbD_eq
  intro i hi
  simp only [ctrlFields, BitVec.getLsbD_extractLsb', BitVec.getLsbD_append]
  simp [hi]

theorem ctrlFields_go : (ctrlFields c go ack ie vb).getLsbD 4 = go := by
  simp only [ctrlFields, BitVec.getLsbD_append]; simp

theorem ctrlFields_ack : (ctrlFields c go ack ie vb).getLsbD 5 = ack := by
  simp only [ctrlFields, BitVec.getLsbD_append]; simp

theorem ctrlFields_ie : (ctrlFields c go ack ie vb).getLsbD 8 = ie := by
  simp only [ctrlFields, BitVec.getLsbD_append]; simp

theorem ctrlFields_verbose : (ctrlFields c go ack ie vb).getLsbD 9 = vb := by
  simp only [ctrlFields, BitVec.getLsbD_append]; simp

end

/-- What the decoder reads of a word given by its fields. -/
theorem decode_ctrlFields (c : Nibble) (go ack ie vb : Bool) :
    decode (ctrlFields c go ack ie vb) =
      if go then decodeGo c ie vb else if ack then .ack c ie vb else .setctrl c ie vb := by
  simp only [decode, ctrlFields_cmd, ctrlFields_go, ctrlFields_ack, ctrlFields_ie, ctrlFields_verbose]

end Sys2Proof
end

