-- ==== Sys2Proof/Laws/State.lean ====
section
/-! SUPPORT. One lemma per field per named update of the state, true by rfl, so that no later proof unfolds a record update. -/

namespace Sys2Proof.Machine

section
variable (s : State)

@[simp] theorem State.setCtrl_layout (c : Nibble) (ie vb : Bool) : (State.setCtrl c ie vb s).layout = s.layout := rfl
@[simp] theorem State.setCtrl_powerUp (c : Nibble) (ie vb : Bool) : (State.setCtrl c ie vb s).powerUp = s.powerUp := rfl
@[simp] theorem State.setCtrl_inReset (c : Nibble) (ie vb : Bool) : (State.setCtrl c ie vb s).inReset = s.inReset := rfl
@[simp] theorem State.setCtrl_ctrl (c : Nibble) (ie vb : Bool) : (State.setCtrl c ie vb s).ctrl = ⟨c, ie, vb⟩ := rfl
@[simp] theorem State.setCtrl_busy (c : Nibble) (ie vb : Bool) : (State.setCtrl c ie vb s).busy = s.busy := rfl
@[simp] theorem State.setCtrl_done (c : Nibble) (ie vb : Bool) : (State.setCtrl c ie vb s).done = s.done := rfl
@[simp] theorem State.setCtrl_ovr (c : Nibble) (ie vb : Bool) : (State.setCtrl c ie vb s).ovr = s.ovr := rfl
@[simp] theorem State.setCtrl_cur (c : Nibble) (ie vb : Bool) : (State.setCtrl c ie vb s).cur = s.cur := rfl
@[simp] theorem State.setCtrl_result (c : Nibble) (ie vb : Bool) : (State.setCtrl c ie vb s).result = s.result := rfl
@[simp] theorem State.setCtrl_cls (c : Nibble) (ie vb : Bool) : (State.setCtrl c ie vb s).cls = s.cls := rfl
@[simp] theorem State.setCtrl_lastCmd (c : Nibble) (ie vb : Bool) : (State.setCtrl c ie vb s).lastCmd = s.lastCmd := rfl
@[simp] theorem State.setCtrl_rowLen (c : Nibble) (ie vb : Bool) : (State.setCtrl c ie vb s).rowLen = s.rowLen := rfl
@[simp] theorem State.setCtrl_buf (c : Nibble) (ie vb : Bool) : (State.setCtrl c ie vb s).buf = s.buf := rfl
@[simp] theorem State.setCtrl_res (c : Nibble) (ie vb : Bool) : (State.setCtrl c ie vb s).res = s.res := rfl
@[simp] theorem State.setCtrl_rdata (c : Nibble) (ie vb : Bool) : (State.setCtrl c ie vb s).rdata = s.rdata := rfl
@[simp] theorem State.setCtrl_hostOk (c : Nibble) (ie vb : Bool) : (State.setCtrl c ie vb s).hostOk = s.hostOk := rfl
@[simp] theorem State.setCtrl_tape (c : Nibble) (ie vb : Bool) : (State.setCtrl c ie vb s).tape = s.tape := rfl

@[simp] theorem State.loseWrite_layout : (s.loseWrite).layout = s.layout := rfl
@[simp] theorem State.loseWrite_powerUp : (s.loseWrite).powerUp = s.powerUp := rfl
@[simp] theorem State.loseWrite_inReset : (s.loseWrite).inReset = s.inReset := rfl
@[simp] theorem State.loseWrite_ctrl : (s.loseWrite).ctrl = s.ctrl := rfl
@[simp] theorem State.loseWrite_busy : (s.loseWrite).busy = s.busy := rfl
@[simp] theorem State.loseWrite_done : (s.loseWrite).done = s.done := rfl
@[simp] theorem State.loseWrite_ovr : (s.loseWrite).ovr = true := rfl
@[simp] theorem State.loseWrite_cur : (s.loseWrite).cur = s.cur := rfl
@[simp] theorem State.loseWrite_result : (s.loseWrite).result = s.result := rfl
@[simp] theorem State.loseWrite_cls : (s.loseWrite).cls = s.cls := rfl
@[simp] theorem State.loseWrite_lastCmd : (s.loseWrite).lastCmd = s.lastCmd := rfl
@[simp] theorem State.loseWrite_rowLen : (s.loseWrite).rowLen = s.rowLen := rfl
@[simp] theorem State.loseWrite_buf : (s.loseWrite).buf = s.buf := rfl
@[simp] theorem State.loseWrite_res : (s.loseWrite).res = s.res := rfl
@[simp] theorem State.loseWrite_rdata : (s.loseWrite).rdata = s.rdata := rfl
@[simp] theorem State.loseWrite_hostOk : (s.loseWrite).hostOk = s.hostOk := rfl
@[simp] theorem State.loseWrite_tape : (s.loseWrite).tape = s.tape := rfl

@[simp] theorem State.clearDone_layout : (s.clearDone).layout = s.layout := rfl
@[simp] theorem State.clearDone_powerUp : (s.clearDone).powerUp = s.powerUp := rfl
@[simp] theorem State.clearDone_inReset : (s.clearDone).inReset = s.inReset := rfl
@[simp] theorem State.clearDone_ctrl : (s.clearDone).ctrl = s.ctrl := rfl
@[simp] theorem State.clearDone_busy : (s.clearDone).busy = s.busy := rfl
@[simp] theorem State.clearDone_done : (s.clearDone).done = false := rfl
@[simp] theorem State.clearDone_ovr : (s.clearDone).ovr = s.ovr := rfl
@[simp] theorem State.clearDone_cur : (s.clearDone).cur = s.cur := rfl
@[simp] theorem State.clearDone_result : (s.clearDone).result = s.result := rfl
@[simp] theorem State.clearDone_cls : (s.clearDone).cls = s.cls := rfl
@[simp] theorem State.clearDone_lastCmd : (s.clearDone).lastCmd = s.lastCmd := rfl
@[simp] theorem State.clearDone_rowLen : (s.clearDone).rowLen = s.rowLen := rfl
@[simp] theorem State.clearDone_buf : (s.clearDone).buf = s.buf := rfl
@[simp] theorem State.clearDone_res : (s.clearDone).res = s.res := rfl
@[simp] theorem State.clearDone_rdata : (s.clearDone).rdata = s.rdata := rfl
@[simp] theorem State.clearDone_hostOk : (s.clearDone).hostOk = s.hostOk := rfl
@[simp] theorem State.clearDone_tape : (s.clearDone).tape = s.tape := rfl

@[simp] theorem State.clearOvr_layout : (s.clearOvr).layout = s.layout := rfl
@[simp] theorem State.clearOvr_powerUp : (s.clearOvr).powerUp = s.powerUp := rfl
@[simp] theorem State.clearOvr_inReset : (s.clearOvr).inReset = s.inReset := rfl
@[simp] theorem State.clearOvr_ctrl : (s.clearOvr).ctrl = s.ctrl := rfl
@[simp] theorem State.clearOvr_busy : (s.clearOvr).busy = s.busy := rfl
@[simp] theorem State.clearOvr_done : (s.clearOvr).done = s.done := rfl
@[simp] theorem State.clearOvr_ovr : (s.clearOvr).ovr = false := rfl
@[simp] theorem State.clearOvr_cur : (s.clearOvr).cur = s.cur := rfl
@[simp] theorem State.clearOvr_result : (s.clearOvr).result = s.result := rfl
@[simp] theorem State.clearOvr_cls : (s.clearOvr).cls = s.cls := rfl
@[simp] theorem State.clearOvr_lastCmd : (s.clearOvr).lastCmd = s.lastCmd := rfl
@[simp] theorem State.clearOvr_rowLen : (s.clearOvr).rowLen = s.rowLen := rfl
@[simp] theorem State.clearOvr_buf : (s.clearOvr).buf = s.buf := rfl
@[simp] theorem State.clearOvr_res : (s.clearOvr).res = s.res := rfl
@[simp] theorem State.clearOvr_rdata : (s.clearOvr).rdata = s.rdata := rfl
@[simp] theorem State.clearOvr_hostOk : (s.clearOvr).hostOk = s.hostOk := rfl
@[simp] theorem State.clearOvr_tape : (s.clearOvr).tape = s.tape := rfl

@[simp] theorem State.start_layout (c : Nibble) (ie vb : Bool) : (State.start c ie vb s).layout = s.layout := rfl
@[simp] theorem State.start_powerUp (c : Nibble) (ie vb : Bool) : (State.start c ie vb s).powerUp = s.powerUp := rfl
@[simp] theorem State.start_inReset (c : Nibble) (ie vb : Bool) : (State.start c ie vb s).inReset = s.inReset := rfl
@[simp] theorem State.start_ctrl (c : Nibble) (ie vb : Bool) : (State.start c ie vb s).ctrl = ⟨c, ie, vb⟩ := rfl
@[simp] theorem State.start_busy (c : Nibble) (ie vb : Bool) : (State.start c ie vb s).busy = true := rfl
@[simp] theorem State.start_done (c : Nibble) (ie vb : Bool) : (State.start c ie vb s).done = false := rfl
@[simp] theorem State.start_ovr (c : Nibble) (ie vb : Bool) : (State.start c ie vb s).ovr = s.ovr := rfl
@[simp] theorem State.start_cur (c : Nibble) (ie vb : Bool) : (State.start c ie vb s).cur = c := rfl
@[simp] theorem State.start_result (c : Nibble) (ie vb : Bool) : (State.start c ie vb s).result = s.result := rfl
@[simp] theorem State.start_cls (c : Nibble) (ie vb : Bool) : (State.start c ie vb s).cls = s.cls := rfl
@[simp] theorem State.start_lastCmd (c : Nibble) (ie vb : Bool) : (State.start c ie vb s).lastCmd = s.lastCmd := rfl
@[simp] theorem State.start_rowLen (c : Nibble) (ie vb : Bool) : (State.start c ie vb s).rowLen = s.rowLen := rfl
@[simp] theorem State.start_buf (c : Nibble) (ie vb : Bool) : (State.start c ie vb s).buf = s.buf := rfl
@[simp] theorem State.start_res (c : Nibble) (ie vb : Bool) : (State.start c ie vb s).res = s.res := rfl
@[simp] theorem State.start_rdata (c : Nibble) (ie vb : Bool) : (State.start c ie vb s).rdata = s.rdata := rfl
@[simp] theorem State.start_hostOk (c : Nibble) (ie vb : Bool) : (State.start c ie vb s).hostOk = s.hostOk := rfl
@[simp] theorem State.start_tape (c : Nibble) (ie vb : Bool) : (State.start c ie vb s).tape = s.tape := rfl

@[simp] theorem State.commit_layout (c : ResultCode) (r : Results) : (State.commit c r s).layout = s.layout := rfl
@[simp] theorem State.commit_powerUp (c : ResultCode) (r : Results) : (State.commit c r s).powerUp = s.powerUp := rfl
@[simp] theorem State.commit_inReset (c : ResultCode) (r : Results) : (State.commit c r s).inReset = s.inReset := rfl
@[simp] theorem State.commit_ctrl (c : ResultCode) (r : Results) : (State.commit c r s).ctrl = s.ctrl := rfl
@[simp] theorem State.commit_busy (c : ResultCode) (r : Results) : (State.commit c r s).busy = false := rfl
@[simp] theorem State.commit_done (c : ResultCode) (r : Results) : (State.commit c r s).done = true := rfl
@[simp] theorem State.commit_ovr (c : ResultCode) (r : Results) : (State.commit c r s).ovr = s.ovr := rfl
@[simp] theorem State.commit_cur (c : ResultCode) (r : Results) : (State.commit c r s).cur = s.cur := rfl
@[simp] theorem State.commit_result (c : ResultCode) (r : Results) : (State.commit c r s).result = c := rfl
@[simp] theorem State.commit_cls (c : ResultCode) (r : Results) : (State.commit c r s).cls = classOf c := rfl
@[simp] theorem State.commit_lastCmd (c : ResultCode) (r : Results) : (State.commit c r s).lastCmd = s.cur := rfl
@[simp] theorem State.commit_rowLen (c : ResultCode) (r : Results) : (State.commit c r s).rowLen = s.rowLen := rfl
@[simp] theorem State.commit_buf (c : ResultCode) (r : Results) : (State.commit c r s).buf = s.buf := rfl
@[simp] theorem State.commit_res (c : ResultCode) (r : Results) : (State.commit c r s).res = r := rfl
@[simp] theorem State.commit_rdata (c : ResultCode) (r : Results) : (State.commit c r s).rdata = s.rdata := rfl
@[simp] theorem State.commit_hostOk (c : ResultCode) (r : Results) : (State.commit c r s).hostOk = s.hostOk := rfl
@[simp] theorem State.commit_tape (c : ResultCode) (r : Results) : (State.commit c r s).tape = s.tape := rfl

@[simp] theorem State.storeRowLen_layout (n : BitVec 16) : (State.storeRowLen n s).layout = s.layout := rfl
@[simp] theorem State.storeRowLen_powerUp (n : BitVec 16) : (State.storeRowLen n s).powerUp = s.powerUp := rfl
@[simp] theorem State.storeRowLen_inReset (n : BitVec 16) : (State.storeRowLen n s).inReset = s.inReset := rfl
@[simp] theorem State.storeRowLen_ctrl (n : BitVec 16) : (State.storeRowLen n s).ctrl = s.ctrl := rfl
@[simp] theorem State.storeRowLen_busy (n : BitVec 16) : (State.storeRowLen n s).busy = s.busy := rfl
@[simp] theorem State.storeRowLen_done (n : BitVec 16) : (State.storeRowLen n s).done = s.done := rfl
@[simp] theorem State.storeRowLen_ovr (n : BitVec 16) : (State.storeRowLen n s).ovr = s.ovr := rfl
@[simp] theorem State.storeRowLen_cur (n : BitVec 16) : (State.storeRowLen n s).cur = s.cur := rfl
@[simp] theorem State.storeRowLen_result (n : BitVec 16) : (State.storeRowLen n s).result = s.result := rfl
@[simp] theorem State.storeRowLen_cls (n : BitVec 16) : (State.storeRowLen n s).cls = s.cls := rfl
@[simp] theorem State.storeRowLen_lastCmd (n : BitVec 16) : (State.storeRowLen n s).lastCmd = s.lastCmd := rfl
@[simp] theorem State.storeRowLen_rowLen (n : BitVec 16) : (State.storeRowLen n s).rowLen = n := rfl
@[simp] theorem State.storeRowLen_buf (n : BitVec 16) : (State.storeRowLen n s).buf = s.buf := rfl
@[simp] theorem State.storeRowLen_res (n : BitVec 16) : (State.storeRowLen n s).res = { s.res with stage := .none } := rfl
@[simp] theorem State.storeRowLen_rdata (n : BitVec 16) : (State.storeRowLen n s).rdata = s.rdata := rfl
@[simp] theorem State.storeRowLen_hostOk (n : BitVec 16) : (State.storeRowLen n s).hostOk = s.hostOk := rfl
@[simp] theorem State.storeRowLen_tape (n : BitVec 16) : (State.storeRowLen n s).tape = s.tape := rfl

@[simp] theorem State.storeBufWord_layout (w : Nat) (v : Word) : (State.storeBufWord w v s).layout = s.layout := rfl
@[simp] theorem State.storeBufWord_powerUp (w : Nat) (v : Word) : (State.storeBufWord w v s).powerUp = s.powerUp := rfl
@[simp] theorem State.storeBufWord_inReset (w : Nat) (v : Word) : (State.storeBufWord w v s).inReset = s.inReset := rfl
@[simp] theorem State.storeBufWord_ctrl (w : Nat) (v : Word) : (State.storeBufWord w v s).ctrl = s.ctrl := rfl
@[simp] theorem State.storeBufWord_busy (w : Nat) (v : Word) : (State.storeBufWord w v s).busy = s.busy := rfl
@[simp] theorem State.storeBufWord_done (w : Nat) (v : Word) : (State.storeBufWord w v s).done = s.done := rfl
@[simp] theorem State.storeBufWord_ovr (w : Nat) (v : Word) : (State.storeBufWord w v s).ovr = s.ovr := rfl
@[simp] theorem State.storeBufWord_cur (w : Nat) (v : Word) : (State.storeBufWord w v s).cur = s.cur := rfl
@[simp] theorem State.storeBufWord_result (w : Nat) (v : Word) : (State.storeBufWord w v s).result = s.result := rfl
@[simp] theorem State.storeBufWord_cls (w : Nat) (v : Word) : (State.storeBufWord w v s).cls = s.cls := rfl
@[simp] theorem State.storeBufWord_lastCmd (w : Nat) (v : Word) : (State.storeBufWord w v s).lastCmd = s.lastCmd := rfl
@[simp] theorem State.storeBufWord_rowLen (w : Nat) (v : Word) : (State.storeBufWord w v s).rowLen = s.rowLen := rfl
@[simp] theorem State.storeBufWord_buf (w : Nat) (v : Word) : (State.storeBufWord w v s).buf = s.buf.writeWord w v := rfl
@[simp] theorem State.storeBufWord_res (w : Nat) (v : Word) : (State.storeBufWord w v s).res = { s.res with stage := .none } := rfl
@[simp] theorem State.storeBufWord_rdata (w : Nat) (v : Word) : (State.storeBufWord w v s).rdata = s.rdata := rfl
@[simp] theorem State.storeBufWord_hostOk (w : Nat) (v : Word) : (State.storeBufWord w v s).hostOk = s.hostOk := rfl
@[simp] theorem State.storeBufWord_tape (w : Nat) (v : Word) : (State.storeBufWord w v s).tape = s.tape := rfl

@[simp] theorem State.toResetValues_layout : (s.toResetValues).layout = s.layout := rfl
@[simp] theorem State.toResetValues_powerUp : (s.toResetValues).powerUp = s.powerUp := rfl
@[simp] theorem State.toResetValues_inReset : (s.toResetValues).inReset = s.inReset := rfl
@[simp] theorem State.toResetValues_ctrl : (s.toResetValues).ctrl = ⟨0, false, false⟩ := rfl
@[simp] theorem State.toResetValues_busy : (s.toResetValues).busy = false := rfl
@[simp] theorem State.toResetValues_done : (s.toResetValues).done = false := rfl
@[simp] theorem State.toResetValues_ovr : (s.toResetValues).ovr = false := rfl
@[simp] theorem State.toResetValues_cur : (s.toResetValues).cur = 0 := rfl
@[simp] theorem State.toResetValues_result : (s.toResetValues).result = .ok := rfl
@[simp] theorem State.toResetValues_cls : (s.toResetValues).cls = .none := rfl
@[simp] theorem State.toResetValues_lastCmd : (s.toResetValues).lastCmd = 0 := rfl
@[simp] theorem State.toResetValues_rowLen : (s.toResetValues).rowLen = 0 := rfl
@[simp] theorem State.toResetValues_buf : (s.toResetValues).buf = s.buf := rfl
@[simp] theorem State.toResetValues_res : (s.toResetValues).res = Results.cleared s.layout.frameLen := rfl
@[simp] theorem State.toResetValues_rdata : (s.toResetValues).rdata = s.rdata := rfl
@[simp] theorem State.toResetValues_hostOk : (s.toResetValues).hostOk = s.hostOk := rfl
@[simp] theorem State.toResetValues_tape : (s.toResetValues).tape = s.tape := rfl

@[simp] theorem State.setReset_layout (a : Bool) : (State.setReset a s).layout = s.layout := rfl
@[simp] theorem State.setReset_powerUp (a : Bool) : (State.setReset a s).powerUp = s.powerUp := rfl
@[simp] theorem State.setReset_inReset (a : Bool) : (State.setReset a s).inReset = a := rfl
@[simp] theorem State.setReset_ctrl (a : Bool) : (State.setReset a s).ctrl = s.ctrl := rfl
@[simp] theorem State.setReset_busy (a : Bool) : (State.setReset a s).busy = s.busy := rfl
@[simp] theorem State.setReset_done (a : Bool) : (State.setReset a s).done = s.done := rfl
@[simp] theorem State.setReset_ovr (a : Bool) : (State.setReset a s).ovr = s.ovr := rfl
@[simp] theorem State.setReset_cur (a : Bool) : (State.setReset a s).cur = s.cur := rfl
@[simp] theorem State.setReset_result (a : Bool) : (State.setReset a s).result = s.result := rfl
@[simp] theorem State.setReset_cls (a : Bool) : (State.setReset a s).cls = s.cls := rfl
@[simp] theorem State.setReset_lastCmd (a : Bool) : (State.setReset a s).lastCmd = s.lastCmd := rfl
@[simp] theorem State.setReset_rowLen (a : Bool) : (State.setReset a s).rowLen = s.rowLen := rfl
@[simp] theorem State.setReset_buf (a : Bool) : (State.setReset a s).buf = s.buf := rfl
@[simp] theorem State.setReset_res (a : Bool) : (State.setReset a s).res = s.res := rfl
@[simp] theorem State.setReset_rdata (a : Bool) : (State.setReset a s).rdata = s.rdata := rfl
@[simp] theorem State.setReset_hostOk (a : Bool) : (State.setReset a s).hostOk = s.hostOk := rfl
@[simp] theorem State.setReset_tape (a : Bool) : (State.setReset a s).tape = s.tape := rfl

@[simp] theorem State.setRdata_layout (v : Word) : (State.setRdata v s).layout = s.layout := rfl
@[simp] theorem State.setRdata_powerUp (v : Word) : (State.setRdata v s).powerUp = s.powerUp := rfl
@[simp] theorem State.setRdata_inReset (v : Word) : (State.setRdata v s).inReset = s.inReset := rfl
@[simp] theorem State.setRdata_ctrl (v : Word) : (State.setRdata v s).ctrl = s.ctrl := rfl
@[simp] theorem State.setRdata_busy (v : Word) : (State.setRdata v s).busy = s.busy := rfl
@[simp] theorem State.setRdata_done (v : Word) : (State.setRdata v s).done = s.done := rfl
@[simp] theorem State.setRdata_ovr (v : Word) : (State.setRdata v s).ovr = s.ovr := rfl
@[simp] theorem State.setRdata_cur (v : Word) : (State.setRdata v s).cur = s.cur := rfl
@[simp] theorem State.setRdata_result (v : Word) : (State.setRdata v s).result = s.result := rfl
@[simp] theorem State.setRdata_cls (v : Word) : (State.setRdata v s).cls = s.cls := rfl
@[simp] theorem State.setRdata_lastCmd (v : Word) : (State.setRdata v s).lastCmd = s.lastCmd := rfl
@[simp] theorem State.setRdata_rowLen (v : Word) : (State.setRdata v s).rowLen = s.rowLen := rfl
@[simp] theorem State.setRdata_buf (v : Word) : (State.setRdata v s).buf = s.buf := rfl
@[simp] theorem State.setRdata_res (v : Word) : (State.setRdata v s).res = s.res := rfl
@[simp] theorem State.setRdata_rdata (v : Word) : (State.setRdata v s).rdata = v := rfl
@[simp] theorem State.setRdata_hostOk (v : Word) : (State.setRdata v s).hostOk = s.hostOk := rfl
@[simp] theorem State.setRdata_tape (v : Word) : (State.setRdata v s).tape = s.tape := rfl

@[simp] theorem State.setTape_layout (t : List Move) : (State.setTape t s).layout = s.layout := rfl
@[simp] theorem State.setTape_powerUp (t : List Move) : (State.setTape t s).powerUp = s.powerUp := rfl
@[simp] theorem State.setTape_inReset (t : List Move) : (State.setTape t s).inReset = s.inReset := rfl
@[simp] theorem State.setTape_ctrl (t : List Move) : (State.setTape t s).ctrl = s.ctrl := rfl
@[simp] theorem State.setTape_busy (t : List Move) : (State.setTape t s).busy = s.busy := rfl
@[simp] theorem State.setTape_done (t : List Move) : (State.setTape t s).done = s.done := rfl
@[simp] theorem State.setTape_ovr (t : List Move) : (State.setTape t s).ovr = s.ovr := rfl
@[simp] theorem State.setTape_cur (t : List Move) : (State.setTape t s).cur = s.cur := rfl
@[simp] theorem State.setTape_result (t : List Move) : (State.setTape t s).result = s.result := rfl
@[simp] theorem State.setTape_cls (t : List Move) : (State.setTape t s).cls = s.cls := rfl
@[simp] theorem State.setTape_lastCmd (t : List Move) : (State.setTape t s).lastCmd = s.lastCmd := rfl
@[simp] theorem State.setTape_rowLen (t : List Move) : (State.setTape t s).rowLen = s.rowLen := rfl
@[simp] theorem State.setTape_buf (t : List Move) : (State.setTape t s).buf = s.buf := rfl
@[simp] theorem State.setTape_res (t : List Move) : (State.setTape t s).res = s.res := rfl
@[simp] theorem State.setTape_rdata (t : List Move) : (State.setTape t s).rdata = s.rdata := rfl
@[simp] theorem State.setTape_hostOk (t : List Move) : (State.setTape t s).hostOk = s.hostOk := rfl
@[simp] theorem State.setTape_tape (t : List Move) : (State.setTape t s).tape = t := rfl

@[simp] theorem State.noteExpect_layout (b : Bool) : (State.noteExpect b s).layout = s.layout := rfl
@[simp] theorem State.noteExpect_powerUp (b : Bool) : (State.noteExpect b s).powerUp = s.powerUp := rfl
@[simp] theorem State.noteExpect_inReset (b : Bool) : (State.noteExpect b s).inReset = s.inReset := rfl
@[simp] theorem State.noteExpect_ctrl (b : Bool) : (State.noteExpect b s).ctrl = s.ctrl := rfl
@[simp] theorem State.noteExpect_busy (b : Bool) : (State.noteExpect b s).busy = s.busy := rfl
@[simp] theorem State.noteExpect_done (b : Bool) : (State.noteExpect b s).done = s.done := rfl
@[simp] theorem State.noteExpect_ovr (b : Bool) : (State.noteExpect b s).ovr = s.ovr := rfl
@[simp] theorem State.noteExpect_cur (b : Bool) : (State.noteExpect b s).cur = s.cur := rfl
@[simp] theorem State.noteExpect_result (b : Bool) : (State.noteExpect b s).result = s.result := rfl
@[simp] theorem State.noteExpect_cls (b : Bool) : (State.noteExpect b s).cls = s.cls := rfl
@[simp] theorem State.noteExpect_lastCmd (b : Bool) : (State.noteExpect b s).lastCmd = s.lastCmd := rfl
@[simp] theorem State.noteExpect_rowLen (b : Bool) : (State.noteExpect b s).rowLen = s.rowLen := rfl
@[simp] theorem State.noteExpect_buf (b : Bool) : (State.noteExpect b s).buf = s.buf := rfl
@[simp] theorem State.noteExpect_res (b : Bool) : (State.noteExpect b s).res = s.res := rfl
@[simp] theorem State.noteExpect_rdata (b : Bool) : (State.noteExpect b s).rdata = s.rdata := rfl
@[simp] theorem State.noteExpect_hostOk (b : Bool) : (State.noteExpect b s).hostOk = (s.hostOk && b) := rfl
@[simp] theorem State.noteExpect_tape (b : Bool) : (State.noteExpect b s).tape = s.tape := rfl

@[simp] theorem State.coreNext_layout : (s.coreNext).layout = s.layout := rfl
@[simp] theorem State.coreNext_powerUp : (s.coreNext).powerUp = s.powerUp := rfl
@[simp] theorem State.coreNext_inReset : (s.coreNext).inReset = s.inReset := rfl
@[simp] theorem State.coreNext_ctrl : (s.coreNext).ctrl = s.ctrl := rfl
@[simp] theorem State.coreNext_busy : (s.coreNext).busy = s.busy := rfl
@[simp] theorem State.coreNext_done : (s.coreNext).done = s.done := rfl
@[simp] theorem State.coreNext_ovr : (s.coreNext).ovr = s.ovr := rfl
@[simp] theorem State.coreNext_cur : (s.coreNext).cur = s.cur := rfl
@[simp] theorem State.coreNext_result : (s.coreNext).result = s.result := rfl
@[simp] theorem State.coreNext_cls : (s.coreNext).cls = s.cls := rfl
@[simp] theorem State.coreNext_lastCmd : (s.coreNext).lastCmd = s.lastCmd := rfl
@[simp] theorem State.coreNext_rowLen : (s.coreNext).rowLen = s.rowLen := rfl
@[simp] theorem State.coreNext_buf : (s.coreNext).buf = s.buf := rfl
@[simp] theorem State.coreNext_res : (s.coreNext).res = s.res := rfl
@[simp] theorem State.coreNext_rdata : (s.coreNext).rdata = s.rdata := rfl
@[simp] theorem State.coreNext_hostOk : (s.coreNext).hostOk = s.hostOk := rfl
@[simp] theorem State.coreNext_tape : (s.coreNext).tape = (.core :: s.tape) := rfl

end

@[simp] theorem Results.cleared_stage (n : Nat) : (Results.cleared n).stage = .none := rfl
@[simp] theorem Results.cleared_crcOk (n : Nat) : (Results.cleared n).crcOk = false := rfl
@[simp] theorem Results.cleared_csumOk (n : Nat) : (Results.cleared n).csumOk = false := rfl
@[simp] theorem Results.cleared_syncOff (n : Nat) : (Results.cleared n).syncOff = 0 := rfl
@[simp] theorem Results.cleared_frame (n : Nat) : (Results.cleared n).frame = List.replicate n 0 := rfl
@[simp] theorem Results.cleared_crcCalc (n : Nat) : (Results.cleared n).crcCalc = 0 := rfl
@[simp] theorem Results.cleared_crcRx (n : Nat) : (Results.cleared n).crcRx = 0 := rfl
@[simp] theorem Results.cleared_csumCalc (n : Nat) : (Results.cleared n).csumCalc = 0 := rfl
@[simp] theorem Results.cleared_csumRx (n : Nat) : (Results.cleared n).csumRx = 0 := rfl
@[simp] theorem Results.cleared_var (n : Nat) : (Results.cleared n).var = Option.none := rfl
@[simp] theorem Results.cleared_family (n : Nat) : (Results.cleared n).family = 0 := rfl
@[simp] theorem Results.cleared_typ (n : Nat) : (Results.cleared n).typ = 0 := rfl
@[simp] theorem Results.cleared_channel (n : Nat) : (Results.cleared n).channel = 0 := rfl
@[simp] theorem Results.cleared_battOk (n : Nat) : (Results.cleared n).battOk = false := rfl
@[simp] theorem Results.cleared_sign (n : Nat) : (Results.cleared n).sign = false := rfl
@[simp] theorem Results.cleared_temp (n : Nat) : (Results.cleared n).temp = 0 := rfl
@[simp] theorem Results.cleared_moist (n : Nat) : (Results.cleared n).moist = 0 := rfl
@[simp] theorem Results.cleared_mraw (n : Nat) : (Results.cleared n).mraw = 0 := rfl
@[simp] theorem Results.cleared_id0 (n : Nat) : (Results.cleared n).id0 = 0 := rfl
@[simp] theorem Results.cleared_id1 (n : Nat) : (Results.cleared n).id1 = 0 := rfl

end Sys2Proof.Machine
end

