-- ==== Sys2Proof/Laws/Memory.lean ====
section
/-! SUPPORT. The bit buffer's laws: a read after a write, the canonical form, words and lanes (spec/20_memory.md R76). -/

namespace Sys2Proof.Machine

theorem Memory.read_write (m : Memory) (a b : Nat) (v : Byte) :
    (m.write a v).read b = if b = a then some v else m.read b := by
  induction m with
  | nil => by_cases h : b = a <;> simp [Memory.write, Memory.read, h]
  | cons c m ih =>
    obtain ⟨k, w⟩ := c
    simp only [Memory.write]
    split
    · simp [Memory.read]
    · split
      · subst_vars; simp only [Memory.read]; split <;> rfl
      · next hne =>
        simp only [Memory.read, ih]
        split
        · next hb => rw [if_neg (by omega)]
        · rfl

theorem Memory.mem_write {m : Memory} {a : Nat} {v : Byte} {c : Host.Cell} (h : c ∈ m.write a v) : c.1 = a ∨ c ∈ m := by
  induction m with
  | nil => simp [Memory.write] at h; simp [h]
  | cons d m ih =>
    obtain ⟨k, w⟩ := d
    simp only [Memory.write] at h
    split at h
    · simp at h; rcases h with rfl | rfl | h <;> simp [*]
    · split at h
      · simp at h; rcases h with rfl | h <;> simp [*]
      · simp at h
        rcases h with rfl | h
        · simp
        · rcases ih h with h | h <;> simp [h]

theorem Memory.wf_iff (m : Memory) : m.wf = true ↔ m.Pairwise fun x y => x.1 < y.1 := by
  simp [Memory.wf]

/-- A write keeps the canonical form. -/
theorem Memory.wf_write {m : Memory} (h : m.wf = true) (a : Nat) (v : Byte) : (m.write a v).wf = true := by
  rw [Memory.wf_iff] at *
  induction m with
  | nil => simp [Memory.write]
  | cons c m ih =>
    obtain ⟨k, w⟩ := c
    have hk := (List.pairwise_cons.1 h).1
    have hm := (List.pairwise_cons.1 h).2
    simp only [Memory.write]
    split
    · next hlt =>
      refine List.pairwise_cons.2 ⟨fun d hd => ?_, h⟩
      rcases List.mem_cons.1 hd with rfl | hd
      · exact hlt
      · exact lt_trans hlt (hk d hd)
    · split
      · next hge heq => exact List.pairwise_cons.2 ⟨fun d hd => heq ▸ hk d hd, hm⟩
      · next hge hne =>
        refine List.pairwise_cons.2 ⟨fun d hd => ?_, ih hm⟩
        rcases Memory.mem_write hd with hd | hd
        · simp only [hd]; omega
        · exact hk d hd

theorem Memory.wf_writeWord {m : Memory} (h : m.wf = true) (w : Nat) (v : Word) : (m.writeWord w v).wf = true :=
  Memory.wf_write (Memory.wf_write (Memory.wf_write (Memory.wf_write h _ _) _ _) _ _) _ _

theorem Memory.mem_writeWord {m : Memory} {w : Nat} {v : Word} {c : Host.Cell} (h : c ∈ m.writeWord w v) :
    c.1 / 4 = w ∨ c ∈ m := by
  rcases Memory.mem_write h with h | h
  · left; omega
  rcases Memory.mem_write h with h | h
  · left; omega
  rcases Memory.mem_write h with h | h
  · left; omega
  rcases Memory.mem_write h with h | h
  · left; omega
  exact .inr h

theorem Memory.read_writeWord (m : Memory) (w b : Nat) (v : Word) :
    (m.writeWord w v).read b = if b / 4 = w then some (wordLane v (b % 4)) else m.read b := by
  simp only [Memory.writeWord, Memory.read_write]
  by_cases h : b / 4 = w
  · have hb : b = 4 * w + b % 4 := by omega
    have h4 : b % 4 < 4 := Nat.mod_lt _ (by decide)
    generalize b % 4 = j at hb h4
    subst hb
    simp only [h, if_true]
    obtain rfl | rfl | rfl | rfl : j = 0 ∨ j = 1 ∨ j = 2 ∨ j = 3 := by omega
    all_goals simp
  · rw [if_neg h, if_neg (by omega), if_neg (by omega), if_neg (by omega), if_neg (by omega)]

/-- A byte after an input write of word `w`: the word's lane, or as before. -/
theorem bufByte_storeBufWord (s : State) (w b : Nat) (v : Word) :
    bufByte (s.storeBufWord w v) b = if b / 4 = w then wordLane v (b % 4) else bufByte s b := by
  simp only [bufByte, State.storeBufWord_buf, State.storeBufWord_powerUp, Memory.read_writeWord]
  split <;> rfl

/-- The buffer's bytes are a function of BUF and the power-up draw alone. -/
theorem bufByte_congr {s t : State} (hb : t.buf = s.buf) (hp : t.powerUp = s.powerUp) : bufByte t = bufByte s := by
  funext b; simp only [bufByte, hb, hp]

theorem bufBit_congr {s t : State} (hb : t.buf = s.buf) (hp : t.powerUp = s.powerUp) : bufBit t = bufBit s := by
  funext i; simp only [bufBit, bufByte_congr hb hp]

theorem bufByte_unwritten {s : State} {b : Nat} (h : s.buf.read b = none) :
    bufByte s b = Config.powerUpByte s.powerUp b := by
  simp [bufByte, h]

theorem reset_buf_wf : State.reset.buf.wf = true := by decide

end Sys2Proof.Machine
end

