-- ==== Sys2Proof/Laws/Ops.lean ====
section
/-! SUPPORT. What each shared operation can do, once: starting a command, the interlock, the chaining of bodies and the completion's commit (spec/44_control.md). -/

namespace Sys2Proof.Machine

theorem startCommand_idle {s : State} (h : s.busy = false) (c : Nibble) (ie vb : Bool) :
    startCommand c ie vb s = .next (s.start c ie vb) := by
  simp [startCommand, h]

theorem startCommand_busy {s : State} (h : s.busy = true) (c : Nibble) (ie vb : Bool) :
    startCommand c ie vb s = .next s.loseWrite := by
  simp [startCommand, h]

@[simp] theorem Flow.goOn_andThen (r : Results) (body : Results → Flow) : (Flow.goOn r).andThen body = body r := rfl
@[simp] theorem Flow.ended_andThen (c : ResultCode) (r : Results) (body : Results → Flow) :
    (Flow.ended c r).andThen body = .ended c r := rfl
@[simp] theorem Flow.noVariant_andThen (body : Results → Flow) : Flow.noVariant.andThen body = .noVariant := rfl

theorem interlock_pass {need : Stage} {body : Results → Flow} {r : Results} (h : r.stage = need) :
    interlock need body r = body r := by
  simp [interlock, h]

theorem interlock_fail {need : Stage} {body : Results → Flow} {r : Results} (h : r.stage ≠ need) :
    interlock need body r = .ended .sequenceError r := by
  simp [interlock, h]

@[simp] theorem finish_goOn (s : State) (r : Results) : finish s (.goOn r) = .next (s.commit .ok r) := rfl
@[simp] theorem finish_ended (s : State) (c : ResultCode) (r : Results) :
    finish s (.ended c r) = .next (s.commit c r) := rfl
@[simp] theorem finish_noVariant (s : State) : finish s .noVariant = .refused .noVariantSelected := rfl

/-- All a commit can be: some code and some registers, on the state given. -/
theorem finish_next {s t : State} {f : Flow} (h : finish s f = .next t) : ∃ c r, t = s.commit c r := by
  cases f with
  | goOn r => exact ⟨.ok, r, by simpa using h.symm⟩
  | ended c r => exact ⟨c, r, by simpa using h.symm⟩
  | noVariant => simp at h

/-- Every CTRL write answers a next state, and this is all it can be: a start, a lost write, or the stored fields with DONE
as it was or cleared. -/
theorem exec_cases (i : Instr) (s : State) :
    (∃ c ie vb, s.busy = false ∧ (encode i).getLsbD 4 = true ∧ exec i s = .next (s.start c ie vb)) ∨
    (s.busy = true ∧ (encode i).getLsbD 4 = true ∧ exec i s = .next s.loseWrite) ∨
    (∃ c ie vb, s.busy = false ∧ (encode i).getLsbD 4 = false ∧ (encode i).getLsbD 5 = true ∧
      exec i s = .next (s.setCtrl c ie vb).clearDone) ∨
    (∃ c ie vb, (encode i).getLsbD 4 = false ∧ ((encode i).getLsbD 5 = true → s.busy = true) ∧
      exec i s = .next (s.setCtrl c ie vb)) := by
  have go := fun c ie vb => ctrlFields_go c true false ie vb
  have ngo := fun c a ie vb => ctrlFields_go c false a ie vb
  have ack := ctrlFields_ack
  have starts (c : Nibble) (ie vb : Bool) (j : Instr) (hj : (encode j).getLsbD 4 = true)
      (he : exec j s = startCommand c ie vb s) :
      (∃ c ie vb, s.busy = false ∧ (encode j).getLsbD 4 = true ∧ exec j s = .next (s.start c ie vb)) ∨
      (s.busy = true ∧ (encode j).getLsbD 4 = true ∧ exec j s = .next s.loseWrite) := by
    cases hb : s.busy with
    | false => exact .inl ⟨c, ie, vb, rfl, hj, by rw [he, startCommand_idle hb]⟩
    | true => exact .inr ⟨rfl, hj, by rw [he, startCommand_busy hb]⟩
  have lift {A B C D : Prop} (h : A ∨ B) : A ∨ B ∨ C ∨ D := h.elim .inl fun h => .inr (.inl h)
  cases i with
  | nop ie vb => exact lift (starts 0x0#4 ie vb (.nop ie vb) (go _ ie vb) rfl)
  | decode ie vb => exact lift (starts 0x1#4 ie vb (.decode ie vb) (go _ ie vb) rfl)
  | sync ie vb => exact lift (starts 0x2#4 ie vb (.sync ie vb) (go _ ie vb) rfl)
  | extract ie vb => exact lift (starts 0x3#4 ie vb (.extract ie vb) (go _ ie vb) rfl)
  | verify ie vb => exact lift (starts 0x4#4 ie vb (.verify ie vb) (go _ ie vb) rfl)
  | dispatch ie vb => exact lift (starts 0x5#4 ie vb (.dispatch ie vb) (go _ ie vb) rfl)
  | fields ie vb => exact lift (starts 0x6#4 ie vb (.fields ie vb) (go _ ie vb) rfl)
  | clear ie vb => exact lift (starts 0x7#4 ie vb (.clear ie vb) (go _ ie vb) rfl)
  | reserved c ie vb => exact lift (starts c ie vb (.reserved c ie vb) (go _ ie vb) rfl)
  | ack c ie vb =>
    cases hb : s.busy with
    | false =>
      exact .inr (.inr (.inl ⟨c, ie, vb, rfl, ngo _ _ _ _, ack _ _ _ _ _, by simp [exec, execAck, hb]⟩))
    | true =>
      exact .inr (.inr (.inr ⟨c, ie, vb, ngo _ _ _ _, fun _ => rfl, by simp [exec, execAck, hb]⟩))
  | setctrl c ie vb =>
    exact .inr (.inr (.inr ⟨c, ie, vb, ngo _ _ _ _, fun h => absurd ((ack c false false ie vb).symm.trans h) (by decide), rfl⟩))

/-- A CTRL write never stops the machine (spec/20_memory.md R73). -/
theorem exec_next (i : Instr) (s : State) : ∃ t, exec i s = .next t := by
  rcases exec_cases i s with ⟨c, ie, vb, -, -, h⟩ | ⟨-, -, h⟩ | ⟨c, ie, vb, -, -, -, h⟩ | ⟨c, ie, vb, -, -, h⟩ <;>
    exact ⟨_, h⟩

/-- All a completion can be (R241): a commit of some code and registers, for CLEAR with OVR cleared as well. -/
theorem completeCommand_next {s t : State} (h : completeCommand s = .next t) :
    ∃ c r, t = s.commit c r ∨ (s.cur = 0x7#4 ∧ t = s.clearOvr.commit c r) := by
  have lift {u : State} {f : Flow} (hu : finish s f = .next u) :
      ∃ c r, u = s.commit c r ∨ (s.cur = 0x7#4 ∧ u = s.clearOvr.commit c r) := by
    obtain ⟨c, r, rfl⟩ := finish_next hu
    exact ⟨c, r, .inl rfl⟩
  unfold completeCommand at h
  split at h
  · exact lift h
  · exact lift h
  · exact lift h
  · exact lift h
  · exact lift h
  · exact lift h
  · exact lift h
  · next h7 =>
    obtain ⟨c, r, rfl⟩ := finish_next h
    exact ⟨c, r, .inr ⟨BitVec.eq_of_toNat_eq (by simpa using h7), rfl⟩⟩
  · exact lift h

end Sys2Proof.Machine
end

