-- ==== Sys2Proof/Laws/Search.lean ====
section
/-! SUPPORT. The preamble search and the frame copy, in the terms of the statements: `FirstPreambleAt` and `IsFrameAt` (spec/40_sync_extract.md R121, R122, R130). -/

namespace Sys2Proof.Machine

theorem patternAt_iff (s : State) (p : Nat) :
    patternAt s p = true ↔ ∀ j, j < s.layout.preLen → bufBit s (p + j) = patternBit s.layout j := by
  simp [patternAt]

/-- The search over `k` positions from `p` ends at the first position that matches. -/
theorem syncSearchFrom_eq_some {s : State} {p k off : Nat} :
    syncSearchFrom s p k = some off ↔
      ∃ q, p ≤ q ∧ q < p + k ∧ patternAt s q = true ∧ (∀ r, p ≤ r → r < q → patternAt s r = false) ∧
        off = q + s.layout.preLen := by
  induction k generalizing p with
  | zero => simp only [syncSearchFrom]; constructor
            · intro h; cases h
            · rintro ⟨q, h1, h2, -⟩; omega
  | succ k ih =>
    simp only [syncSearchFrom]
    cases hp : patternAt s p with
    | true =>
      simp only [if_true, Option.some.injEq]
      constructor
      · rintro rfl
        exact ⟨p, le_rfl, by omega, hp, fun r h1 h2 => by omega, rfl⟩
      · rintro ⟨q, h1, h2, h3, h4, rfl⟩
        rcases Nat.eq_or_lt_of_le h1 with rfl | h
        · rfl
        · rw [h4 p le_rfl h] at hp; cases hp
    | false =>
      simp only [Bool.false_eq_true, if_false, ih]
      constructor
      · rintro ⟨q, h1, h2, h3, h4, h5⟩
        refine ⟨q, by omega, by omega, h3, fun r hr hq => ?_, h5⟩
        rcases Nat.eq_or_lt_of_le hr with rfl | h
        · exact hp
        · exact h4 r h hq
      · rintro ⟨q, h1, h2, h3, h4, h5⟩
        have hne : p ≠ q := by rintro rfl; rw [hp] at h3; cases h3
        exact ⟨q, by omega, by omega, h3, fun r hr hq => h4 r (by omega) hq, h5⟩

/-- The search finds exactly the end of the first match below `n` (R122). -/
theorem syncSearch_eq_some {s : State} {n off : Nat} :
    syncSearch s n = some off ↔ ∃ p, FirstPreambleAt s n p ∧ off = p + s.layout.preLen := by
  simp only [syncSearch, syncSearchFrom_eq_some, FirstPreambleAt, PreambleAt]
  constructor
  · rintro ⟨q, -, h2, h3, h4, h5⟩
    refine ⟨q, ⟨⟨by omega, (patternAt_iff s q).1 h3⟩, fun r hr hc => ?_⟩, h5⟩
    have := h4 r (by omega) hr
    rw [(patternAt_iff s r).2 hc.2] at this
    cases this
  · rintro ⟨p, ⟨⟨h1, h2⟩, h3⟩, h5⟩
    refine ⟨p, by omega, by omega, (patternAt_iff s p).2 h2, fun r _ hr => ?_, h5⟩
    cases hp : patternAt s r with
    | false => rfl
    | true => exact absurd ⟨by omega, (patternAt_iff s r).1 hp⟩ (h3 r hr)

/-- The search fails exactly when the pattern matches nowhere below `n` (R122). -/
theorem syncSearch_eq_none {s : State} {n : Nat} : syncSearch s n = none ↔ ∀ p, ¬ PreambleAt s n p := by
  constructor
  · intro h p hp
    have hex : ∃ p, PreambleAt s n p := ⟨p, hp⟩
    classical
    have hf : FirstPreambleAt s n (Nat.find hex) := ⟨Nat.find_spec hex, fun q hq => Nat.find_min hex hq⟩
    have := syncSearch_eq_some.2 ⟨_, hf, rfl⟩
    rw [h] at this; cases this
  · intro h
    cases hs : syncSearch s n with
    | none => rfl
    | some off =>
      obtain ⟨p, hp, -⟩ := syncSearch_eq_some.1 hs
      exact absurd hp.1 (h p)

theorem FirstPreambleAt.unique {s : State} {n p q : Nat} (hp : FirstPreambleAt s n p) (hq : FirstPreambleAt s n q) :
    p = q := by
  rcases Nat.lt_trichotomy p q with h | h | h
  · exact absurd hp.1 (hq.2 p h)
  · exact h
  · exact absurd hq.1 (hp.2 q h)

/-- Matching reads only bits below `n` (R121, R126). -/
theorem preambleAt_congr {s s' : State} {n p : Nat} (hl : s.layout = s'.layout)
    (hb : ∀ i, i < n → bufBit s i = bufBit s' i) : PreambleAt s n p ↔ PreambleAt s' n p := by
  unfold PreambleAt
  rw [← hl]
  constructor <;> rintro ⟨h1, h2⟩ <;> refine ⟨h1, fun j hj => ?_⟩
  · rw [← hb _ (by omega)]; exact h2 j hj
  · rw [hb _ (by omega)]; exact h2 j hj

theorem firstPreambleAt_congr {s s' : State} {n p : Nat} (hl : s.layout = s'.layout)
    (hb : ∀ i, i < n → bufBit s i = bufBit s' i) : FirstPreambleAt s n p ↔ FirstPreambleAt s' n p := by
  simp only [FirstPreambleAt, preambleAt_congr hl hb]

/-- Eight bits put together most significant first read back bit by bit. -/
theorem byte_of_bits : ∀ b : Fin 8 → Bool, ∀ j : Fin 8,
    (BitVec.ofNat 8 ((b 0).toNat * 2 ^ 7 + ((b 1).toNat * 2 ^ 6 + ((b 2).toNat * 2 ^ 5 + ((b 3).toNat * 2 ^ 4 +
      ((b 4).toNat * 2 ^ 3 + ((b 5).toNat * 2 ^ 2 + ((b 6).toNat * 2 ^ 1 + ((b 7).toNat * 2 ^ 0 + 0))))))))).getLsbD
        (7 - j.val) = b j := by
  intro b j
  have key : ∀ b0 b1 b2 b3 b4 b5 b6 b7 : Bool,
      BitVec.ofNat 8 (b0.toNat * 2 ^ 7 + (b1.toNat * 2 ^ 6 + (b2.toNat * 2 ^ 5 + (b3.toNat * 2 ^ 4 +
        (b4.toNat * 2 ^ 3 + (b5.toNat * 2 ^ 2 + (b6.toNat * 2 ^ 1 + (b7.toNat * 2 ^ 0 + 0)))))))) =
      BitVec.ofBool b0 ++ BitVec.ofBool b1 ++ BitVec.ofBool b2 ++ BitVec.ofBool b3 ++ BitVec.ofBool b4 ++
        BitVec.ofBool b5 ++ BitVec.ofBool b6 ++ BitVec.ofBool b7 := by decide
  rw [key]
  simp only [BitVec.getLsbD_append]
  fin_cases j <;> simp

/-- Bit `7 - j` of an extracted byte is buffer bit `i + j` (R130). -/
theorem extractByte_bit (s : State) (i : Nat) {j : Nat} (hj : j < 8) :
    (extractByte s i).getLsbD (7 - j) = bufBit s (i + j) :=
  byte_of_bits (fun k => bufBit s (i + k.val)) ⟨j, hj⟩

theorem extractFrame_length (s : State) (off : Nat) : (extractFrame s off).length = s.layout.frameLen := by
  simp [extractFrame]

theorem frameByte_extractFrame (s : State) (off : Nat) {k : Nat} (hk : k < s.layout.frameLen) :
    frameByte (extractFrame s off) k = extractByte s (off + 8 * k) := by
  simp [frameByte, extractFrame, List.getD, hk]

theorem isFrameAt_extractFrame (s : State) (off : Nat) : IsFrameAt s off (extractFrame s off) :=
  ⟨extractFrame_length s off, fun k j hk hj => by rw [frameByte_extractFrame s off hk, extractByte_bit s _ hj]⟩

/-- Two bytes whose bits agree, most significant first, are equal. -/
theorem byte_ext {a b : Byte} (h : ∀ j, j < 8 → a.getLsbD (7 - j) = b.getLsbD (7 - j)) : a = b := by
  apply BitVec.eq_of_getLsbD_eq
  intro i hi
  have := h (7 - i) (by omega)
  rwa [show 7 - (7 - i) = i by omega] at this

theorem frame_ext {f g : List Byte} (hl : f.length = g.length) (h : ∀ k, k < f.length → frameByte f k = frameByte g k) :
    f = g := by
  apply List.ext_getElem hl
  intro k h1 h2
  have := h k h1
  simpa [frameByte, List.getD, h1, h2] using this

theorem IsFrameAt.unique {s : State} {off : Nat} {f g : List Byte} (hf : IsFrameAt s off f) (hg : IsFrameAt s off g) :
    f = g :=
  frame_ext (hf.1.trans hg.1.symm) fun k hk => byte_ext fun j hj => by
    rw [hf.2 k j (hf.1 ▸ hk) hj, hg.2 k j (hf.1 ▸ hk) hj]

theorem extractByte_congr {s s' : State} {i i' : Nat} (h : ∀ j, j < 8 → bufBit s (i + j) = bufBit s' (i' + j)) :
    extractByte s i = extractByte s' i' :=
  byte_ext fun j hj => by rw [extractByte_bit s i hj, extractByte_bit s' i' hj, h j hj]

/-- The frame depends only on the `8L` bits it is copied from (R133). -/
theorem extractFrame_congr {s s' : State} {off off' : Nat} (hl : s.layout = s'.layout)
    (h : ∀ i, i < 8 * s.layout.frameLen → bufBit s (off + i) = bufBit s' (off' + i)) :
    ∀ k, k < s.layout.frameLen → frameByte (extractFrame s off) k = frameByte (extractFrame s' off') k := by
  intro k hk
  rw [frameByte_extractFrame s off hk, frameByte_extractFrame s' off' (hl ▸ hk)]
  refine extractByte_congr fun j hj => ?_
  rw [Nat.add_assoc, Nat.add_assoc]
  exact h _ (by omega)

end Sys2Proof.Machine
end

