-- ==== Sys2Proof/Laws/Bodies.lean ====
section
/-! SUPPORT. What each command's body comes to, case by case (spec/40_sync_extract.md to spec/44_control.md). -/

namespace Sys2Proof.Machine

theorem bodySync_badRowlen {s : State} (h : s.layout.capBits < s.rowLen.toNat) :
    bodySync s = .ended .badRowlen (Results.cleared s.layout.frameLen) := by
  simp [bodySync, clearFrameState, h]

theorem bodySync_notFound {s : State} (h : s.rowLen.toNat ≤ s.layout.capBits)
    (hn : ∀ p, ¬ PreambleAt s s.rowLen.toNat p) :
    bodySync s = .ended .notFound (Results.cleared s.layout.frameLen) := by
  simp [bodySync, clearFrameState, Nat.not_lt.2 h, syncSearch_eq_none.2 hn]

theorem bodySync_found {s : State} {p : Nat} (h : s.rowLen.toNat ≤ s.layout.capBits)
    (hp : FirstPreambleAt s s.rowLen.toNat p) :
    bodySync s = .goOn { Results.cleared s.layout.frameLen with
      syncOff := BitVec.ofNat 16 (p + s.layout.preLen), stage := .synced } := by
  simp [bodySync, clearFrameState, Nat.not_lt.2 h, syncSearch_eq_some.2 ⟨p, hp, rfl⟩]

/-- All SYNC's body can come to. -/
theorem bodySync_cases (s : State) :
    (s.layout.capBits < s.rowLen.toNat ∧ bodySync s = .ended .badRowlen (Results.cleared s.layout.frameLen)) ∨
    (s.rowLen.toNat ≤ s.layout.capBits ∧ (∀ p, ¬ PreambleAt s s.rowLen.toNat p) ∧
      bodySync s = .ended .notFound (Results.cleared s.layout.frameLen)) ∨
    (s.rowLen.toNat ≤ s.layout.capBits ∧ ∃ p, FirstPreambleAt s s.rowLen.toNat p ∧
      bodySync s = .goOn { Results.cleared s.layout.frameLen with
        syncOff := BitVec.ofNat 16 (p + s.layout.preLen), stage := .synced }) := by
  rcases Nat.lt_or_ge s.layout.capBits s.rowLen.toNat with h | h
  · exact .inl ⟨h, bodySync_badRowlen h⟩
  · cases hs : syncSearch s s.rowLen.toNat with
    | none => exact .inr (.inl ⟨h, syncSearch_eq_none.1 hs, bodySync_notFound h (syncSearch_eq_none.1 hs)⟩)
    | some off =>
      obtain ⟨p, hp, -⟩ := syncSearch_eq_some.1 hs
      exact .inr (.inr ⟨h, p, hp, bodySync_found h hp⟩)

/-- The offset SYNC stores is the match's end itself: it is at most LEN, which has 16 bits. -/
theorem syncOff_toNat {s : State} {p : Nat} (hp : FirstPreambleAt s s.rowLen.toNat p) :
    (BitVec.ofNat 16 (p + s.layout.preLen)).toNat = p + s.layout.preLen := by
  have h := hp.1.1
  have := s.rowLen.isLt
  simp only [BitVec.toNat_ofNat]
  exact Nat.mod_eq_of_lt (by omega)

/-- All EXTRACT's body can come to. -/
theorem bodyExtract_cases (s : State) (r : Results) :
    (s.rowLen.toNat < r.syncOff.toNat + 8 * s.layout.frameLen ∧ bodyExtract s r = .ended .insufficientLength r) ∨
    (r.syncOff.toNat + 8 * s.layout.frameLen ≤ s.rowLen.toNat ∧
      bodyExtract s r = .goOn { r with frame := extractFrame s r.syncOff.toNat, stage := .extracted }) := by
  rcases Nat.lt_or_ge s.rowLen.toNat (r.syncOff.toNat + 8 * s.layout.frameLen) with h | h
  · exact .inl ⟨h, by simp [bodyExtract, h]⟩
  · exact .inr ⟨h, by simp [bodyExtract, Nat.not_lt.2 h]⟩

/-- All VERIFY's body can come to. -/
theorem bodyVerify_cases (s : State) (r : Results) :
    (crc16 (payload s.layout r.frame) ≠ crcReceived s.layout r.frame ∧
      bodyVerify s r = .ended .crcMismatch (verifyResults s.layout r)) ∨
    (crc16 (payload s.layout r.frame) = crcReceived s.layout r.frame ∧
      checksum (payload s.layout r.frame) ≠ csumReceived s.layout r.frame ∧
      bodyVerify s r = .ended .checksumMismatch (verifyResults s.layout r)) ∨
    (IntegrityPasses s.layout r.frame ∧
      bodyVerify s r = .goOn { verifyResults s.layout r with stage := .verified }) := by
  by_cases h : crc16 (payload s.layout r.frame) = crcReceived s.layout r.frame
  · by_cases h' : checksum (payload s.layout r.frame) = csumReceived s.layout r.frame
    · exact .inr (.inr ⟨⟨h, h'⟩, by simp [bodyVerify, verifyResults, h, h']⟩)
    · exact .inr (.inl ⟨h, h', by simp [bodyVerify, verifyResults, h, h']⟩)
  · exact .inl ⟨h, by simp [bodyVerify, verifyResults, h]⟩

/-- All DISPATCH's body can come to. -/
theorem bodyDispatch_cases (s : State) (r : Results) :
    (frameByte r.frame s.layout.famPos ≠ s.layout.famVal ∧
      bodyDispatch s r = .ended .unknownFamily
        { r with family := frameByte r.frame s.layout.famPos, typ := 0, var := none }) ∨
    (frameByte r.frame s.layout.famPos = s.layout.famVal ∧
      typeVariant s.layout.typeMap (frameByte r.frame s.layout.typePos) = none ∧
      bodyDispatch s r = .ended .unknownType
        { r with family := frameByte r.frame s.layout.famPos, typ := frameByte r.frame s.layout.typePos, var := none }) ∨
    (frameByte r.frame s.layout.famPos = s.layout.famVal ∧
      ∃ v, typeVariant s.layout.typeMap (frameByte r.frame s.layout.typePos) = some v ∧
        bodyDispatch s r = .goOn
          { r with family := frameByte r.frame s.layout.famPos, typ := frameByte r.frame s.layout.typePos, var := some v,
                   stage := .dispatched }) := by
  by_cases h : frameByte r.frame s.layout.famPos = s.layout.famVal
  · cases ht : typeVariant s.layout.typeMap (frameByte r.frame s.layout.typePos) with
    | none => exact .inr (.inl ⟨h, rfl, by simp [bodyDispatch, h, ht]⟩)
    | some v => exact .inr (.inr ⟨h, v, rfl, by simp [bodyDispatch, h, ht]⟩)
  · exact .inl ⟨h, by simp [bodyDispatch, h]⟩

/-- All FIELDS's body can come to with a variant selected. -/
theorem bodyFields_cases (s : State) {r : Results} {v : Variant} (hv : r.var = some v) :
    (channelValid (frameNib r.frame (fieldLayout s.layout v).chan) = false ∧
      bodyFields s r = .ended .channelRange r) ∨
    (channelValid (frameNib r.frame (fieldLayout s.layout v).chan) = true ∧
      moisture (fieldLayout s.layout v).mstMode (moistureRaw (fieldLayout s.layout v) r.frame) = none ∧
      bodyFields s r = .ended .moistureRange r) ∨
    (channelValid (frameNib r.frame (fieldLayout s.layout v).chan) = true ∧
      ∃ m, moisture (fieldLayout s.layout v).mstMode (moistureRaw (fieldLayout s.layout v) r.frame) = some m ∧
        bodyFields s r = .goOn (fieldResults s.layout (fieldLayout s.layout v) m r)) := by
  cases hc : channelValid (frameNib r.frame (fieldLayout s.layout v).chan) with
  | false => exact .inl ⟨rfl, by simp [bodyFields, hv, hc]⟩
  | true =>
    cases hm : moisture (fieldLayout s.layout v).mstMode (moistureRaw (fieldLayout s.layout v) r.frame) with
    | none => exact .inr (.inl ⟨rfl, rfl, by simp [bodyFields, hv, hc, hm]⟩)
    | some m => exact .inr (.inr ⟨rfl, m, rfl, by simp [bodyFields, hv, hc, hm]⟩)

theorem bodyFields_noVariant (s : State) {r : Results} (hv : r.var = none) : bodyFields s r = .noVariant := by
  simp [bodyFields, hv]

end Sys2Proof.Machine
end

