-- ==== Sys2Proof/Laws/Integrity.lean ====
section
/-! SUPPORT. The CRC register's steps are injective, so a single changed byte changes the CRC (spec/41_integrity.md R150). -/

namespace Sys2Proof.Machine

theorem crcShift_injective : Function.Injective crcShift := by
  intro a b h
  unfold crcShift at h
  have h0 := congrArg (fun x : BitVec 16 => x.getLsbD 0) h
  have hp : crcPoly.getLsbD 0 = true := by decide
  have key : a <<< 1 = b <<< 1 ∧ a.getLsbD 15 = b.getLsbD 15 := by
    cases ha : a.getLsbD 15 <;> cases hb : b.getLsbD 15 <;> rw [ha, hb] at h h0
    · exact ⟨h, rfl⟩
    · exfalso; rw [BitVec.getLsbD_eq_getElem (by decide)] at hp; simp at h0; rw [h0] at hp; cases hp
    · exfalso; rw [BitVec.getLsbD_eq_getElem (by decide)] at hp; simp at h0; rw [h0] at hp; cases hp
    · simp only [if_true] at h; exact ⟨by simpa using congrArg (· ^^^ crcPoly) h, rfl⟩
  apply BitVec.eq_of_getLsbD_eq; intro i hi
  rcases Nat.lt_or_ge i 15 with h15 | h15
  · have := congrArg (fun x : BitVec 16 => x.getLsbD (i+1)) key.1
    rw [BitVec.getLsbD_eq_getElem hi, BitVec.getLsbD_eq_getElem hi]; simpa [show i + 1 < 16 by omega] using this
  · rw [show i = 15 by omega]; exact key.2

theorem crcShift_repeat_injective : ∀ n, Function.Injective (Nat.repeat crcShift n) := by
  intro n; induction n with
  | zero => intro a b h; exact h
  | succ n ih => intro a b h; exact ih (crcShift_injective h)

theorem crcByte_injective (b : Byte) : Function.Injective (fun c => crcByte c b) := by
  intro c d h
  have := crcShift_repeat_injective 8 h
  simpa using congrArg (· ^^^ (b.setWidth 16 <<< 8)) this

theorem crcByte_byte_injective (c : BitVec 16) {b b' : Byte} (h : crcByte c b = crcByte c b') : b = b' := by
  have h1 := crcShift_repeat_injective 8 h
  have h2 : b.setWidth 16 <<< 8 = b'.setWidth 16 <<< 8 := by
    have := congrArg (fun x => c ^^^ x) h1
    simpa [← BitVec.xor_assoc] using this
  apply BitVec.eq_of_getLsbD_eq; intro i hi
  have := congrArg (fun x : BitVec 16 => x.getLsbD (i+8)) h2
  simpa [show i + 8 < 16 by omega, show i < 16 by omega] using this

theorem crcFold_injective (l : List Byte) : Function.Injective (fun c => l.foldl crcByte c) := by
  induction l with
  | nil => intro a b h; exact h
  | cons x l ih => intro a b h; exact crcByte_injective x (ih h)

theorem crc16_one_byte (l : List Byte) (x y : Byte) (r : List Byte) (h : x ≠ y) : crc16 (l ++ x :: r) ≠ crc16 (l ++ y :: r) := by
  unfold crc16
  rw [List.foldl_append, List.foldl_append, List.foldl_cons, List.foldl_cons]
  intro hc
  exact h (crcByte_byte_injective _ (crcFold_injective r hc))

end Sys2Proof.Machine
end

