-- ==== Sys2Proof/Laws/PerInstr.lean ====
section
/-! SUPPORT. What holds of every instruction's CTRL word, one lemma per constructor (spec/30_encoding.md R100, R106, spec/opcode_table.json). -/

namespace Sys2Proof.Laws.CanonicalWord

/-- The word of a well-formed instruction has its reserved bits [7:6] and [31:10] at 0 and is a word of its own row of the
opcode table. -/
def Statement (i : Instr) : Prop :=
  i.wf = true → encode i &&& 0xFFFFFCC0#32 = 0 ∧ rowMatches (encode i) (opcodeRows.getD i.row (0, 0)) = true

theorem nop (ie verbose : Bool) : Statement (.nop ie verbose) :=
  fun _ => by cases ie <;> cases verbose <;> decide

theorem decode (ie verbose : Bool) : Statement (.decode ie verbose) :=
  fun _ => by cases ie <;> cases verbose <;> decide

theorem sync (ie verbose : Bool) : Statement (.sync ie verbose) :=
  fun _ => by cases ie <;> cases verbose <;> decide

theorem extract (ie verbose : Bool) : Statement (.extract ie verbose) :=
  fun _ => by cases ie <;> cases verbose <;> decide

theorem verify (ie verbose : Bool) : Statement (.verify ie verbose) :=
  fun _ => by cases ie <;> cases verbose <;> decide

theorem dispatch (ie verbose : Bool) : Statement (.dispatch ie verbose) :=
  fun _ => by cases ie <;> cases verbose <;> decide

theorem fields (ie verbose : Bool) : Statement (.fields ie verbose) :=
  fun _ => by cases ie <;> cases verbose <;> decide

theorem clear (ie verbose : Bool) : Statement (.clear ie verbose) :=
  fun _ => by cases ie <;> cases verbose <;> decide

theorem reserved (code : Nibble) (ie verbose : Bool) : Statement (.reserved code ie verbose) := by
  unfold Statement
  revert code ie verbose
  decide

theorem ack (cmd : Nibble) (ie verbose : Bool) : Statement (.ack cmd ie verbose) := by
  unfold Statement
  revert cmd ie verbose
  decide

theorem setctrl (cmd : Nibble) (ie verbose : Bool) : Statement (.setctrl cmd ie verbose) := by
  unfold Statement
  revert cmd ie verbose
  decide

end Sys2Proof.Laws.CanonicalWord
end

