-- ==== Sys2Proof/Laws/Step.lean ====
section
/-! SUPPORT. What one step can do, once: the inversion lemma of `step` (spec/20_memory.md R84), and what a step does for each next move. -/

namespace Sys2Proof.Machine

/-- The register word index an access reaches is that of its address bits [10:2]. -/
theorem wordIndex_eq (addr : Word) : wordIndex addr = (addr.extractLsb' 2 9).toNat := rfl

/-- Above the register block the map is the two windows and the reserved offsets (R72). -/
theorem targetOf_high (n : Nat) : targetOf (n + 14) =
    if 16 ≤ n + 14 ∧ n + 14 < 32 then .frame (n + 14 - 16) else if 256 ≤ n + 14 then .buf (n + 14 - 256) else .reserved :=
  rfl

theorem targetOf_buf (w : Nat) : targetOf (256 + w) = .buf w := by
  have h (k : Nat) (hk : 256 ≤ k) : targetOf k = .buf (k - 256) := by
    obtain ⟨n, rfl⟩ := Nat.exists_eq_add_of_le' (show 14 ≤ k by omega)
    rw [targetOf_high, if_neg (by omega), if_pos hk]
  rw [h _ (Nat.le_add_right _ _), Nat.add_sub_cancel_left]

/-- What a write of a word index does: CTRL, ROW_LEN, a BUF word of the window, or nothing. -/
theorem writeTarget_cases (k : Nat) (v : Word) (s : State) :
    (k = 0 ∧ writeTarget v s (targetOf k) = exec (decode v) s) ∨
    (k = 2 ∧ writeTarget v s (targetOf k) = .next (inputWrite (State.storeRowLen (v.extractLsb' 0 16)) s)) ∨
    (∃ w, k = 256 + w ∧ w < bufWords s.layout ∧
      writeTarget v s (targetOf k) = .next (inputWrite (State.storeBufWord w v) s)) ∨
    (k ≠ 0 ∧ k ≠ 2 ∧ ¬ (256 ≤ k ∧ k - 256 < bufWords s.layout) ∧ writeTarget v s (targetOf k) = .next s) := by
  rcases Nat.lt_or_ge k 256 with hk | hk
  · by_cases h0 : k = 0
    · subst h0; exact .inl ⟨rfl, rfl⟩
    by_cases h2 : k = 2
    · subst h2; exact .inr (.inl ⟨rfl, rfl⟩)
    refine .inr (.inr (.inr ⟨h0, h2, by omega, ?_⟩))
    rcases Nat.lt_or_ge k 14 with h14 | h14
    · interval_cases k <;> first | contradiction | rfl
    · obtain ⟨n, rfl⟩ := Nat.exists_eq_add_of_le' h14
      rw [targetOf_high, if_neg (show ¬ 256 ≤ n + 14 by omega)]
      split <;> rfl
  · obtain ⟨w, rfl⟩ := Nat.exists_eq_add_of_le hk
    rw [targetOf_buf]
    by_cases hw : w < bufWords s.layout
    · exact .inr (.inr (.inl ⟨w, rfl, hw, by simp [writeTarget, hw]⟩))
    · exact .inr (.inr (.inr ⟨by omega, by omega, by omega, by simp [writeTarget, hw]⟩))

/-- No write raises a bus error (R73). -/
theorem memWrite_next (addr v : Word) (s : State) : ∃ t, memWrite addr v s = .next t := by
  unfold memWrite
  split
  · exact ⟨_, rfl⟩
  · rcases writeTarget_cases (wordIndex addr) v s with ⟨-, h⟩ | ⟨-, h⟩ | ⟨w, -, -, h⟩ | ⟨-, -, -, h⟩ <;> rw [h]
    · exact exec_next _ _
    all_goals exact ⟨_, rfl⟩

/-- A step that changes nothing of the block: only the tape, the read data and the EXPECT verdict. -/
def Quiet (s t : State) : Prop :=
  t = { s with tape := t.tape, rdata := t.rdata, hostOk := t.hostOk }

/-- All one step can do: complete the running command, follow the reset input, run a CTRL write, make an input write, or
change nothing of the block. -/
theorem step_cases {s t : State} (h : step s = .next t) :
    layoutWf s.layout = true ∧
    ((s.completesNow ∧ completeCommand (s.setTape s.tape.tail) = .next t) ∨
     (∃ a rest, s.tape = .resetInput a :: rest ∧ t = resetMove a (s.setTape rest)) ∨
     (∃ v, s.writesNow 0 v ∧ exec (decode v) (s.setTape s.tape.tail) = .next t) ∨
     (∃ v, s.writesNow 2 v ∧ t = inputWrite (State.storeRowLen (v.extractLsb' 0 16)) (s.setTape s.tape.tail)) ∨
     (∃ w v, s.writesNow (256 + w) v ∧ w < bufWords s.layout ∧
        t = inputWrite (State.storeBufWord w v) (s.setTape s.tape.tail)) ∨
     (Quiet s t ∧ ¬ s.completesNow)) := by
  unfold step at h
  split at h
  case isFalse => cases h
  case isTrue hl =>
    refine ⟨hl, ?_⟩
    unfold nextMove at h
    have core : ∀ u : State, u = s.setTape s.tape.tail → (s.tape = [] ∨ ∃ rest, s.tape = .core :: rest) →
        coreMove u = .next t →
        (s.completesNow ∧ completeCommand (s.setTape s.tape.tail) = .next t) ∨ (Quiet s t ∧ ¬ s.completesNow) := by
      rintro u rfl ht hc
      unfold coreMove at hc
      split at hc
      · next hb =>
        simp only [State.setTape_busy, State.setTape_inReset, Bool.and_eq_true, Bool.not_eq_true'] at hb
        exact .inl ⟨⟨hb.1, hb.2, ht⟩, hc⟩
      · next hb =>
        simp only [State.setTape_busy, State.setTape_inReset, Bool.and_eq_true, Bool.not_eq_true'] at hb
        cases hc
        exact .inr ⟨rfl, fun hc => hb ⟨hc.1, hc.2.1⟩⟩
    split at h
    case h_1 ht =>
      have hs : s = s.setTape s.tape.tail := by rw [ht]; exact congrArg (fun x => { s with tape := x }) ht
      rcases core s hs (.inl ht) h with h | h
      · exact .inl h
      · exact .inr (.inr (.inr (.inr (.inr h))))
    case h_2 m rest ht =>
      have htail : s.tape.tail = rest := by rw [ht]; rfl
      have nocore : m ≠ .core → ¬ s.completesNow := by
        rintro hm ⟨-, -, hc | ⟨r, hc⟩⟩ <;> rw [ht] at hc <;> cases hc
        exact hm rfl
      cases m with
      | core =>
        rw [← htail] at h
        rcases core _ rfl (.inr ⟨rest, ht⟩) h with h | h
        · exact .inl h
        · exact .inr (.inr (.inr (.inr (.inr h))))
      | resetInput a =>
        exact .inr (.inl ⟨a, rest, ht, by simpa [runMove, eq_comm] using h⟩)
      | read addr =>
        simp only [runMove] at h; cases h
        exact .inr (.inr (.inr (.inr (.inr ⟨rfl, nocore (by simp)⟩))))
      | poll addr mask val =>
        simp only [runMove] at h; cases h
        exact .inr (.inr (.inr (.inr (.inr ⟨rfl, nocore (by simp)⟩))))
      | expect addr mask val =>
        simp only [runMove] at h; cases h
        exact .inr (.inr (.inr (.inr (.inr ⟨rfl, nocore (by simp)⟩))))
      | write addr v =>
        simp only [runMove, memWrite] at h
        split at h
        · cases h
          exact .inr (.inr (.inr (.inr (.inr ⟨rfl, nocore (by simp)⟩))))
        · next hr =>
          have hw : s.writesNow (wordIndex addr) v := ⟨by simpa using hr, addr, rest, ht, rfl⟩
          rw [htail]
          rcases writeTarget_cases (wordIndex addr) v (s.setTape rest) with ⟨hk, he⟩ | ⟨hk, he⟩ | ⟨w, hk, hlt, he⟩ | ⟨-, -, -, he⟩ <;>
            rw [he] at h
          · exact .inr (.inr (.inl ⟨v, hk ▸ hw, h⟩))
          · cases h; exact .inr (.inr (.inr (.inl ⟨v, hk ▸ hw, rfl⟩)))
          · cases h; exact .inr (.inr (.inr (.inr (.inl ⟨w, v, hk ▸ hw, hlt, rfl⟩))))
          · cases h
            exact .inr (.inr (.inr (.inr (.inr ⟨rfl, nocore (by simp)⟩))))

/-- A step whose next move is a write. -/
theorem step_write {s : State} {addr v : Word} {rest : List Move} (hl : layoutWf s.layout = true)
    (ht : s.tape = .write addr v :: rest) : step s = memWrite addr v (s.setTape rest) := by
  simp [step, hl, nextMove, ht, runMove]

/-- A step whose next move is the core's completes the running command (R241). -/
theorem step_coreNext {s : State} (hl : layoutWf s.layout = true) (hr : s.inReset = false) (hb : s.busy = true) :
    step s.coreNext = completeCommand s := by
  simp only [step, State.coreNext_layout, hl, if_true, nextMove, State.coreNext_tape, runMove, coreMove]
  have : s.coreNext.setTape s.tape = s := rfl
  rw [this, hb, hr]; rfl

end Sys2Proof.Machine
end

