-- ==== Sys2Proof/Laws/Pipeline.lean ====
section
/-! SUPPORT. What a body reads, and that each body keeps the results sound (spec/10_state.md R33): the lemmas for the invariant and for DECODE (spec/44_control.md R243). -/

namespace Sys2Proof.Machine

/-- EXTRACT's body reads only LAYOUT, LEN and the bits below LEN (R131, R133). -/
theorem bodyExtract_congr {s s' : State} (hl : s.layout = s'.layout) (hr : s.rowLen = s'.rowLen)
    (hb : ∀ i, i < s.rowLen.toNat → bufBit s i = bufBit s' i) (r : Results) : bodyExtract s r = bodyExtract s' r := by
  have hfr : ∀ off, off + 8 * s'.layout.frameLen ≤ s'.rowLen.toNat → extractFrame s off = extractFrame s' off := by
    intro off ho
    refine frame_ext (by rw [extractFrame_length, extractFrame_length, hl]) fun k hk => ?_
    rw [extractFrame_length] at hk
    exact extractFrame_congr hl (fun i hi => hb _ (by rw [hr]; rw [hl] at hi; omega)) k hk
  rcases bodyExtract_cases s r with ⟨h, h1⟩ | ⟨h, h1⟩ <;> rcases bodyExtract_cases s' r with ⟨h', h1'⟩ | ⟨h', h1'⟩ <;> rw [h1, h1']
  · rw [hl, hr] at h; omega
  · rw [hl, hr] at h; omega
  · rw [hfr _ h']

/-- SYNC's body reads only LAYOUT, LEN and the bits below LEN (R123, R126). -/
theorem bodySync_congr {s s' : State} (hl : s.layout = s'.layout) (hr : s.rowLen = s'.rowLen)
    (hb : ∀ i, i < s.rowLen.toNat → bufBit s i = bufBit s' i) : bodySync s = bodySync s' := by
  rcases bodySync_cases s with ⟨a, h1⟩ | ⟨a, b, h1⟩ | ⟨a, p, hp, h1⟩ <;> rw [h1]
  · rw [bodySync_badRowlen (s := s') (by rw [← hl, ← hr]; exact a), hl]
  · rw [bodySync_notFound (s := s') (by rw [← hl, ← hr]; exact a) (fun p hp => b p ((preambleAt_congr hl hb).2 (by rw [hr]; exact hp))), hl]
  · rw [bodySync_found (s := s') (p := p) (by rw [← hl, ← hr]; exact a) (by rw [← hr]; exact (firstPreambleAt_congr hl hb).1 hp), hl]

/-- So does the whole pipeline (R46, R243). -/
theorem pipeline_congr {s s' : State} (hl : s.layout = s'.layout) (hr : s.rowLen = s'.rowLen)
    (hb : ∀ i, i < s.rowLen.toNat → bufBit s i = bufBit s' i) : pipeline s = pipeline s' := by
  have he : bodyExtract s = bodyExtract s' := funext (bodyExtract_congr hl hr hb)
  have hv : bodyVerify s = bodyVerify s' := by funext r; simp only [bodyVerify, hl]
  have hd : bodyDispatch s = bodyDispatch s' := by funext r; simp only [bodyDispatch, hl]
  have hf : bodyFields s = bodyFields s' := by funext r; simp only [bodyFields, hl]
  simp only [pipeline, bodySync_congr hl hr hb, he, hv, hd, hf]

/-- What a body leaves, whether it goes on or ends. -/
def Flow.Leaves (P : Results → Prop) : Flow → Prop
  | .goOn r => P r
  | .ended _ r => P r
  | .noVariant => False

theorem Flow.Leaves.of_goOn {P : Results → Prop} {f : Flow} {r : Results} (h : f.Leaves P) (e : f = .goOn r) : P r := by
  subst e; exact h

/-! The registers show exactly the stages that ran, one lemma for each way a body ends (R275). -/

namespace ShowsStagesRun

theorem extract {lay : Layout} {r : Results} (h : ShowsStagesRun lay r) (hs : r.stage = .synced) (f : List Byte) :
    ShowsStagesRun lay { r with frame := f, stage := .extracted } := by
  unfold ShowsStagesRun at h
  rw [hs] at h
  obtain ⟨off, rfl⟩ : ∃ off, r = .afterSync lay off := ⟨_, h⟩
  exact .inl rfl

/-- At STAGE = 2 VERIFY writes the same registers whether or not it failed before. -/
theorem verifyResults_eq {lay : Layout} {r : Results} (h : ShowsStagesRun lay r) (hs : r.stage = .extracted) :
    verifyResults lay r = verifyResults lay (.afterExtract lay r.syncOff r.frame) := by
  unfold ShowsStagesRun at h
  rw [hs] at h
  rcases h with h | ⟨-, h⟩
  · obtain ⟨off, f, rfl⟩ : ∃ off f, r = .afterExtract lay off f := ⟨_, _, h⟩
    rfl
  · obtain ⟨off, f, rfl⟩ : ∃ off f, r = verifyResults lay (.afterExtract lay off f) := ⟨_, _, h⟩
    rfl

theorem verify_failed {lay : Layout} {r : Results} (h : ShowsStagesRun lay r) (hs : r.stage = .extracted)
    (hi : ¬ IntegrityPasses lay r.frame) : ShowsStagesRun lay (verifyResults lay r) := by
  rw [h.verifyResults_eq hs]
  exact .inr ⟨hi, rfl⟩

theorem verified {lay : Layout} {r : Results} (h : ShowsStagesRun lay r) (hs : r.stage = .extracted) :
    ShowsStagesRun lay { verifyResults lay r with stage := .verified } := by
  rw [h.verifyResults_eq hs]
  exact .inl rfl

/-- At STAGE = 3 the registers are VERIFY's, but for FAMILY and TYPE. -/
theorem eq_afterVerify {lay : Layout} {r : Results} (h : ShowsStagesRun lay r) (hs : r.stage = .verified) :
    ∃ off f fam typ, r = { Results.afterVerify lay off f with family := fam, typ := typ } := by
  unfold ShowsStagesRun at h
  rw [hs] at h
  rcases h with h | ⟨-, h⟩ | ⟨-, -, h⟩ <;> exact ⟨_, _, _, _, h⟩

theorem unknownFamily {lay : Layout} {r : Results} (h : ShowsStagesRun lay r) (hs : r.stage = .verified)
    (hf : frameByte r.frame lay.famPos ≠ lay.famVal) :
    ShowsStagesRun lay { r with family := frameByte r.frame lay.famPos, typ := 0, var := none } := by
  obtain ⟨off, f, fam, typ, rfl⟩ := h.eq_afterVerify hs
  exact .inr (.inl ⟨hf, rfl⟩)

theorem unknownType {lay : Layout} {r : Results} (h : ShowsStagesRun lay r) (hs : r.stage = .verified)
    (hf : frameByte r.frame lay.famPos = lay.famVal)
    (ht : typeVariant lay.typeMap (frameByte r.frame lay.typePos) = none) :
    ShowsStagesRun lay
      { r with family := frameByte r.frame lay.famPos, typ := frameByte r.frame lay.typePos, var := none } := by
  obtain ⟨off, f, fam, typ, rfl⟩ := h.eq_afterVerify hs
  exact .inr (.inr ⟨hf, ht, rfl⟩)

theorem dispatched {lay : Layout} {r : Results} (h : ShowsStagesRun lay r) (hs : r.stage = .verified) (v : Variant) :
    ShowsStagesRun lay
      { r with family := frameByte r.frame lay.famPos, typ := frameByte r.frame lay.typePos, var := some v,
               stage := .dispatched } := by
  obtain ⟨off, f, fam, typ, rfl⟩ := h.eq_afterVerify hs
  exact ⟨v, rfl⟩

theorem decoded {lay : Layout} {r : Results} (h : ShowsStagesRun lay r) (hs : r.stage = .dispatched) {v : Variant}
    (hv : r.var = some v) (m : Nat) : ShowsStagesRun lay (fieldResults lay (fieldLayout lay v) m r) := by
  unfold ShowsStagesRun at h
  rw [hs] at h
  obtain ⟨v', h⟩ := h
  obtain ⟨off, f, rfl⟩ : ∃ off f, r = .afterDispatch lay off f v' := ⟨_, _, h⟩
  cases hv
  exact ⟨_, m, rfl⟩

end ShowsStagesRun

/-- Registers that fit `s`: the frame has `L` bytes, and STAGE is sound with them. -/
def ResultsSound (s : State) (r : Results) : Prop :=
  r.frame.length = s.layout.frameLen ∧ StageSound { s with res := r }

theorem resultsSound_of_none {s : State} {r : Results} (hl : r.frame.length = s.layout.frameLen) (h : r.stage = .none) :
    ResultsSound s r := by
  have h0 : stageNum ({ s with res := r } : State).res.stage = 0 := by show stageNum r.stage = 0; rw [h]; rfl
  refine ⟨hl, ⟨?_, ?_, ?_, ?_, ?_, by simp [ShowsStagesRun, h]⟩⟩ <;> intro hc <;> rw [h0] at hc <;> omega

theorem resultsSound_cleared (s : State) : ResultsSound s (Results.cleared s.layout.frameLen) :=
  resultsSound_of_none (by simp [Results.cleared]) rfl

theorem bodySync_sound (s : State) : (bodySync s).Leaves (ResultsSound s) ∧ ∀ r, bodySync s = .goOn r → r.stage = .synced := by
  rcases bodySync_cases s with ⟨-, h⟩ | ⟨-, -, h⟩ | ⟨hl, p, hp, h⟩ <;> rw [h]
  · exact ⟨resultsSound_cleared s, by simp⟩
  · exact ⟨resultsSound_cleared s, by simp⟩
  · refine ⟨⟨by simp [Results.cleared], ⟨fun _ => ⟨hl, p, hp, syncOff_toNat hp⟩, ?_, ?_, ?_, ?_, rfl⟩⟩, ?_⟩
    any_goals (intro hc; simp [stageNum] at hc)
    intro r hr; cases hr; rfl

theorem bodyExtract_sound {s : State} {r : Results} (hg : ResultsSound s r) (hs : r.stage = .synced) :
    (bodyExtract s r).Leaves (ResultsSound s) ∧ ∀ r', bodyExtract s r = .goOn r' → r'.stage = .extracted := by
  rcases bodyExtract_cases s r with ⟨-, h⟩ | ⟨hl, h⟩ <;> rw [h]
  · exact ⟨hg, by simp⟩
  · refine ⟨⟨extractFrame_length s _, ⟨fun _ => hg.2.synced (by show 1 ≤ stageNum r.stage; rw [hs]; decide), fun _ => ⟨hl, isFrameAt_extractFrame s _⟩, ?_, ?_, ?_, hg.2.shows.extract hs _⟩⟩, ?_⟩
    any_goals (intro hc; simp [stageNum] at hc)
    intro r hr; cases hr; rfl

theorem bodyVerify_sound {s : State} {r : Results} (hg : ResultsSound s r) (hs : r.stage = .extracted) :
    (bodyVerify s r).Leaves (ResultsSound s) ∧ ∀ r', bodyVerify s r = .goOn r' → r'.stage = .verified := by
  have h1 := hg.2.synced (by show 1 ≤ stageNum r.stage; rw [hs]; decide)
  have h2 := hg.2.extracted (by show 2 ≤ stageNum r.stage; rw [hs]; decide)
  have hv : ¬ IntegrityPasses s.layout r.frame → ResultsSound s (verifyResults s.layout r) := by
    intro hi
    refine ⟨hg.1, ⟨fun _ => h1, fun _ => h2, ?_, ?_, ?_, hg.2.shows.verify_failed hs hi⟩⟩
    all_goals (intro hc; have : ({ s with res := verifyResults s.layout r } : State).res.stage = .extracted := hs
               rw [this] at hc; simp [stageNum] at hc)
  rcases bodyVerify_cases s r with ⟨hi, h⟩ | ⟨-, hi, h⟩ | ⟨hi, h⟩ <;> rw [h]
  · exact ⟨hv fun hp => hi hp.1, by simp⟩
  · exact ⟨hv fun hp => hi hp.2, by simp⟩
  · refine ⟨⟨hg.1, ⟨fun _ => h1, fun _ => h2, fun _ => ⟨beq_iff_eq.2 hi.1, beq_iff_eq.2 hi.2, hi⟩, ?_, ?_,
      hg.2.shows.verified hs⟩⟩, ?_⟩
    any_goals (intro hc; simp [stageNum] at hc)
    intro r hr; cases hr; rfl

theorem bodyDispatch_sound {s : State} {r : Results} (hg : ResultsSound s r) (hs : r.stage = .verified) :
    (bodyDispatch s r).Leaves (ResultsSound s) ∧ ∀ r', bodyDispatch s r = .goOn r' → r'.stage = .dispatched := by
  have h1 := hg.2.synced (by show 1 ≤ stageNum r.stage; rw [hs]; decide)
  have h2 := hg.2.extracted (by show 2 ≤ stageNum r.stage; rw [hs]; decide)
  have h3 := hg.2.verified (by show 3 ≤ stageNum r.stage; rw [hs]; decide)
  rcases bodyDispatch_cases s r with ⟨hf, h⟩ | ⟨hf, ht, h⟩ | ⟨hf, v, hv, h⟩ <;> rw [h]
  · refine ⟨⟨hg.1, ⟨fun _ => h1, fun _ => h2, fun _ => h3, ?_, ?_, hg.2.shows.unknownFamily hs hf⟩⟩, by simp⟩
    all_goals (intro hc; simp [hs, stageNum] at hc)
  · refine ⟨⟨hg.1, ⟨fun _ => h1, fun _ => h2, fun _ => h3, ?_, ?_, hg.2.shows.unknownType hs hf ht⟩⟩, by simp⟩
    all_goals (intro hc; simp [hs, stageNum] at hc)
  · refine ⟨⟨hg.1, ⟨fun _ => h1, fun _ => h2, fun _ => h3, fun _ => ⟨hf, v, rfl, hv⟩, ?_, hg.2.shows.dispatched hs v⟩⟩, ?_⟩
    · intro hc; simp [stageNum] at hc
    · intro r hr; cases hr; rfl

theorem bodyFields_sound {s : State} {r : Results} (hg : ResultsSound s r) (hs : r.stage = .dispatched) :
    (bodyFields s r).Leaves (ResultsSound s) := by
  have h1 := hg.2.synced (by show 1 ≤ stageNum r.stage; rw [hs]; decide)
  have h2 := hg.2.extracted (by show 2 ≤ stageNum r.stage; rw [hs]; decide)
  have h3 := hg.2.verified (by show 3 ≤ stageNum r.stage; rw [hs]; decide)
  have h4 := hg.2.dispatched (by show 4 ≤ stageNum r.stage; rw [hs]; decide)
  obtain ⟨-, v, hv, -⟩ := id h4
  rcases bodyFields_cases s hv with ⟨-, h⟩ | ⟨-, -, h⟩ | ⟨hc, m, hm, h⟩ <;> rw [h]
  · exact hg
  · exact hg
  · exact ⟨hg.1, ⟨fun _ => h1, fun _ => h2, fun _ => h3, fun _ => h4, fun _ => ⟨v, m, hv, hc, hm, rfl⟩,
      hg.2.shows.decoded hs hv m⟩⟩

theorem andThen_sound {s : State} {f : Flow} {body : Results → Flow} {a b : Stage}
   (hf : f.Leaves (ResultsSound s) ∧ ∀ r, f = .goOn r → r.stage = a)
   (hb : ∀ r, ResultsSound s r → r.stage = a → (body r).Leaves (ResultsSound s) ∧ ∀ r', body r = .goOn r' → r'.stage = b) :
   (f.andThen body).Leaves (ResultsSound s) ∧ ∀ r, f.andThen body = .goOn r → r.stage = b := by
  cases f with
  | goOn r => exact hb r hf.1 (hf.2 r rfl)
  | ended c r => exact ⟨hf.1, by intro r h; cases h⟩
  | noVariant => exact hf.1.elim

theorem pipeline_sound (s : State) : (pipeline s).Leaves (ResultsSound s) := by
  have h := andThen_sound (andThen_sound (andThen_sound (bodySync_sound s) fun _ => bodyExtract_sound) fun _ => bodyVerify_sound) fun _ => bodyDispatch_sound
  unfold pipeline
  generalize (((bodySync s).andThen (bodyExtract s)).andThen (bodyVerify s)).andThen (bodyDispatch s) = f at *
  cases f with
  | goOn r => exact bodyFields_sound h.1 (h.2 r rfl)
  | ended c r => exact h.1
  | noVariant => exact h.1.elim

theorem interlock_sound {s : State} {need : Stage} {body : Results → Flow} {r : Results} (hg : ResultsSound s r)
    (hb : ResultsSound s r → r.stage = need → (body r).Leaves (ResultsSound s)) : (interlock need body r).Leaves (ResultsSound s) := by
  by_cases h : r.stage = need
  · rw [interlock_pass h]; exact hb hg h
  · rw [interlock_fail h]; exact hg

/-- STAGE's soundness rests on LAYOUT, LEN, BUF and the result registers alone. -/
theorem stageSound_congr {s t : State} (h : StageSound s) (hl : t.layout = s.layout) (hr : t.rowLen = s.rowLen) (hb : t.buf = s.buf)
    (hp : t.powerUp = s.powerUp) (hres : t.res = s.res) : StageSound t := by
  refine ⟨?_, ?_, ?_, ?_, ?_, ?_⟩
  · rw [hres, hr, hl]; intro hc
    obtain ⟨h1, p, h2, h3⟩ := h.synced hc
    exact ⟨h1, p, (firstPreambleAt_congr hl.symm (fun i _ => by rw [bufBit_congr hb hp])).1 h2, h3⟩
  · rw [hres, hr, hl]; intro hc
    refine ⟨(h.extracted hc).1, ?_⟩
    have := (h.extracted hc).2
    unfold IsFrameAt at *
    rw [hl, bufBit_congr hb hp]; exact this
  · rw [hres, hl]; exact h.verified
  · rw [hres, hl]; exact h.dispatched
  · rw [hres, hl]; exact h.decoded
  · rw [hres, hl]; exact h.shows

end Sys2Proof.Machine
end

