-- ==== Sys2Proof/Tests/Slice0.lean ====
section
/-! SUPPORT. Tests of one step each, with expected values from spec/30_encoding.md and spec/95_test_vectors.md, and for every statement with hypotheses a state that meets them. -/

namespace Sys2Proof.Tests

/-! One test is elaborated at a time: many at once need more threads than the memory limit leaves room for. -/
set_option Elab.async false

open Sys2Proof.Machine

/-! Helpers. -/

/-- The next state, if the outcome is one. -/
def after : Host.Outcome State Fault Refusal → Option State
  | .next t => some t
  | .fault _ => none
  | .refused _ => none

theorem exists_next {o : Host.Outcome State Fault Refusal} (p : State → Bool) (h : (after o).any p = true) :
    ∃ t, o = .next t ∧ p t = true := by
  cases o with
  | next t => exact ⟨t, rfl, h⟩
  | fault r => cases h
  | refused r => cases h

/-- The block after the host has loaded `words` and LEN. -/
def loaded (words : List Word) (len : BitVec 16) : State :=
  { State.reset with buf := (words.zipIdx.foldl (fun m wi => m.writeWord wi.2 wi.1) []), rowLen := len }

/-- The block with these registers. -/
def holding (r : Results) : State := { State.reset with res := r }

def noResults : Results := Results.cleared 18

/-- The V vectors' input: `AA AA 2D D4` and a frame's five words, 176 bits (95_test_vectors.md, Inputs). -/
def inputOf (frame : List Word) : State := loaded (0xAAAA2DD4#32 :: frame) 176#16

def wordsA : List Word := [0x84211234#32, 0x56781002#32, 0x03000000#32, 0x23420108#32, 0x00680000#32]
def wordsB : List Word := [0xE5D9DEAD#32, 0xBEEF1001#32, 0x05000000#32, 0x05708047#32, 0x00750000#32]

/-- Frame B at bit offset 27 (V-E3). -/
def shiftedB : State :=
  loaded [0x1545BA9C#32, 0xBB3BD5B7#32, 0xDDE20020#32, 0xA0000000#32, 0xAE1008E0#32, 0x0EA00000#32] 176#16

/-- The 18 bytes of five words. -/
def bytesOf (words : List Word) : List Byte :=
  (words.flatMap fun w => [wordLane w 0, wordLane w 1, wordLane w 2, wordLane w 3]).take 18

def frameA : List Byte := bytesOf wordsA
def frameB : List Byte := bytesOf wordsB

/-- The registers before VERIFY, DISPATCH and FIELDS with frame `f`. -/
def extracted (f : List Byte) : Results := { noResults with syncOff := 32, frame := f, stage := .extracted }
def verified (f : List Byte) : Results := { extracted f with crcOk := true, csumOk := true, stage := .verified }
def dispatched (f : List Byte) (v : Variant) : Results := { verified f with var := some v, stage := .dispatched }

/-- What a test looks at after `RUN` of one command. -/
def seen (i : Instr) (s : State) (look : State → List Word) : Option (List Word) := (runOne i s).map look

/-! WellFormed: the one check, a RESERVED code below 8. -/

theorem test_wf_refuses_reserved_code_below_8 : (Instr.reserved 0x7#4 false false).wf = false := by decide
theorem test_wf_reserved_bounds : (Instr.reserved 0x8#4 true true).wf = true ∧ (Instr.reserved 0xF#4 true true).wf = true := by
  decide

/-! Decoding: words written out from 30_encoding.md R100 and R104: VERBOSE [9], IE [8], ACK [5], GO [4], CMD [3:0]. -/

theorem test_decode_nop : decode 0b00000000000000000000001000010000#32 = .nop false true := by decide
theorem test_decode_decode : decode 0b00000000000000000000000000010001#32 = .decode false false := by decide
theorem test_decode_sync : decode 0b00000000000000000000000100010010#32 = .sync true false := by decide
theorem test_decode_extract : decode 0b00000000000000000000000000010011#32 = .extract false false := by decide
theorem test_decode_verify : decode 0b00000000000000000000001100010100#32 = .verify true true := by decide
theorem test_decode_dispatch : decode 0b00000000000000000000000000010101#32 = .dispatch false false := by decide
theorem test_decode_fields : decode 0b00000000000000000000000100010110#32 = .fields true false := by decide
theorem test_decode_clear : decode 0b00000000000000000000000000010111#32 = .clear false false := by decide
theorem test_decode_reserved : decode 0b00000000000000000000000100011100#32 = .reserved 0xC#4 true false := by decide
theorem test_decode_ack : decode 0b00000000000000000000000100100000#32 = .ack 0x0#4 true false := by decide
theorem test_decode_setctrl : decode 0b00000000000000000000001000000101#32 = .setctrl 0x5#4 false true := by decide
/-- R101: GO wins over ACK; R106: the reserved bits are ignored. -/
theorem test_decode_go_wins : decode 0xFFFFFCF0#32 = .nop false false := by decide
theorem test_decode_table_word : decodeTableWord 32 0x116 = some (.fields true false) ∧ decodeTableWord 40 0x116 = none := by
  decide

/-! Running a placed word as the first instruction after reset. -/

/-- V-I7. -/
theorem test_step_decode_after_reset :
    ((after (step (State.reset.withFetchWord 32 0x11))).map fun t => [statusWord t, ctrlWord t]) =
      some [0x00000001#32, 0x00000001#32] := by decide +kernel

/-- V-I3's word on the reset state. -/
theorem test_step_ack_after_reset :
    ((after (step (State.reset.withFetchWord 32 0x20))).map fun t => [statusWord t, ctrlWord t]) =
      some [0x00000000#32, 0x00000000#32] := by decide +kernel

/-! Each instruction. -/

/-- V-I4. -/
theorem test_nop : seen (.nop false false) State.reset (fun t => [statusWord t, ctrlWord t]) = some [0x00000002#32, 0#32] := by
  decide +kernel
/-- V-I1. -/
theorem test_nop_ie : seen (.nop true false) State.reset (fun t => [statusWord t, ctrlWord t]) =
    some [0x0000000A#32, 0x00000100#32] := by decide +kernel

/-- V-X1. -/
theorem test_decode_frameA : seen (.decode false false) (inputOf wordsA)
    (fun t => [statusWord t, syncOffWord t.res, crcWord t.res, csumWord t.res, variantWord t.res, reading0Word t.res,
      reading1Word t.res, t.res.id0, t.res.id1]) =
    some [0x00175002#32, 0x20#32, 0x84218421#32, 0x00006868#32, 0x00021002#32, 0x00EA0013#32, 0x0000082F#32, 0x12345678#32,
      0#32] := by decide +kernel
/-- V-X2's registers at V-E3's offset 27. -/
theorem test_decode_shifted_frameB : seen (.decode false false) shiftedB
    (fun t => [statusWord t, syncOffWord t.res, crcWord t.res, variantWord t.res, reading0Word t.res, reading1Word t.res,
      t.res.id0]) =
    some [0x00175002#32, 0x1B#32, 0xE5D9E5D9#32, 0x00011001#32, 0xFFC70025#32, 0x00002F2F#32, 0xDEADBEEF#32] := by
  decide +kernel

/-- V-S4. -/
theorem test_sync_unaligned : seen (.sync false false) (loaded [0x155545BA#32, 0x80000000#32] 35#16)
    (fun t => [statusWord t, syncOffWord t.res]) = some [0x00201002#32, 35#32] := by decide +kernel
/-- V-S5. -/
theorem test_sync_last_bit_past_len : seen (.sync false false) (loaded [0x155545BA#32, 0x80000000#32] 34#16)
    (fun t => [statusWord t, syncOffWord t.res]) = some [0x00200112#32, 0#32] := by decide +kernel

/-- The block after SYNC of the V-E3 input. -/
def syncedB : State := { shiftedB with res := { noResults with syncOff := 27, stage := .synced } }

/-- V-E3. -/
theorem test_extract_unaligned : seen (.extract false false) syncedB
    (fun t => statusWord t :: (List.range 6).map (frameWord t.layout t.res.frame)) =
    some [0x00302002#32, 0xE5D9DEAD#32, 0xBEEF1001#32, 0x05000000#32, 0x05708047#32, 0x00750000#32, 0#32] := by
  decide +kernel
/-- V-E5. -/
theorem test_extract_too_short : seen (.extract false false) { syncedB with rowLen := 170 }
    (fun t => [statusWord t, frameWord t.layout t.res.frame 0]) = some [0x00301222#32, 0#32] := by decide +kernel

/-- V-V2: F[12] = 0x24. -/
def corruptA : List Byte := frameA.set 12 0x24#8

theorem test_verify_crc_mismatch : seen (.verify false false) (holding (extracted corruptA))
    (fun t => [statusWord t, crcWord t.res, csumWord t.res]) = some [0x00402332#32, 0x8421E3F5#32, 0x00006867#32] := by
  decide +kernel
/-- V-V13: all bytes 0. -/
theorem test_verify_checksum_mismatch : seen (.verify false false) (holding (extracted (List.replicate 18 0)))
    (fun t => [statusWord t, crcWord t.res, csumWord t.res]) = some [0x00412342#32, 0#32, 0x000000FF#32] := by
  decide +kernel

/-- V-D1. -/
theorem test_dispatch : seen (.dispatch false false) (holding (verified frameA))
    (fun t => [statusWord t, variantWord t.res]) = some [0x00534002#32, 0x00021002#32] := by decide +kernel

/-- V-D3, V-D5, V-F2a, V-F3d and V-V11: F[6] = 0x11, F[7] = 0x03, F[8] = 0, F[15] = 0x17 and F[17] = 0x69. -/
def badFamily : List Word := [0x5C681234#32, 0x56781102#32, 0x03000000#32, 0x23420108#32, 0x00670000#32]
def badType : List Word := [0xEB641234#32, 0x56781003#32, 0x03000000#32, 0x23420108#32, 0x00670000#32]
def badChannel : List Word := [0xA9651234#32, 0x56781002#32, 0x00000000#32, 0x23420108#32, 0x006B0000#32]
def badMoisture : List Word := [0x976C1234#32, 0x56781002#32, 0x03000000#32, 0x23420117#32, 0x00590000#32]
def badChecksum : List Word := [0x84211234#32, 0x56781002#32, 0x03000000#32, 0x23420108#32, 0x00690000#32]
def badCrc : List Word := [0x84211234#32, 0x56781002#32, 0x03000000#32, 0x24420108#32, 0x00680000#32]

/-- V-D5. -/
theorem test_dispatch_unknown_type : seen (.dispatch false false) (holding (verified (bytesOf badType)))
    (fun t => [statusWord t, variantWord t.res]) = some [0x00533462#32, 0x00031000#32] := by decide +kernel

/-- V-F5a: F[12] = 0x0C, F[13] = 0x30 of frame B, a temperature below -9.9. -/
theorem test_fields_negative : seen (.fields false false)
    (holding (dispatched ((frameB.set 12 0x0C#8).set 13 0x30#8) .soilPercent))
    (fun t => [statusWord t, reading0Word t.res, reading1Word t.res, t.res.id0]) =
    some [0x00675002#32, 0xFF850025#32, 0x00002F2F#32, 0xDEADBEEF#32] := by decide +kernel
/-- V-F3e: F[15] = 0x0A of frame A, index 10 with no digit check. -/
theorem test_fields_table_no_digit_check : seen (.fields false false)
    (holding (dispatched (frameA.set 15 0x0A#8) .soilStep16))
    (fun t => [statusWord t, reading0Word t.res, reading1Word t.res]) =
    some [0x00675002#32, 0x00EA0013#32, 0x00000A3C#32] := by decide +kernel

/-- V-N4, V-I15: CLEAR zeroes the registers and OVR and keeps LEN. -/
theorem test_clear : seen (.clear false false) { holding (dispatched frameA .soilStep16) with ovr := true, rowLen := 176 }
    (fun t => [statusWord t, ctrlWord t, syncOffWord t.res, variantWord t.res, frameWord t.layout t.res.frame 0,
      rowLenWord t]) = some [0x00700002#32, 0x00000007#32, 0#32, 0#32, 0#32, 176#32] := by decide +kernel

/-- V-N1: code 9, from STAGE 5 with both checks passed. -/
theorem test_reserved : seen (.reserved 0x9#4 false false) (holding { dispatched frameA .soilStep16 with stage := .decoded })
    (fun t => [statusWord t, ctrlWord t]) = some [0x009755A2#32, 0x00000009#32] := by decide +kernel

/-- V-I2 on V-I1's end state. -/
theorem test_ack_idle :
    ((after (exec (.ack 0x0#4 true false) { State.reset with ctrl := ⟨0, true, false⟩, done := true })).map fun t =>
      [statusWord t, ctrlWord t]) = some [0#32, 0x00000100#32] := by decide +kernel
/-- V-I11 on V-I10's end state: no effect on DONE or BUSY while busy. -/
theorem test_ack_busy :
    ((after (exec (.ack 0x0#4 true false)
      { State.reset with ctrl := ⟨0, true, false⟩, busy := true, ovr := true, cur := 1 })).map fun t =>
      [statusWord t, ctrlWord t]) = some [0x00000005#32, 0x00000100#32] := by decide +kernel

/-- V-I5 on V-I4's end state. -/
theorem test_setctrl_raises_irq :
    ((after (exec (.setctrl 0x0#4 true false) { State.reset with done := true })).map fun t => [statusWord t, ctrlWord t]) =
      some [0x0000000A#32, 0x00000100#32] := by decide +kernel
/-- V-I8 on V-I7's end state. -/
theorem test_setctrl_busy :
    ((after (exec (.setctrl 0x0#4 true false) { State.reset with ctrl := ⟨1, false, false⟩, busy := true, cur := 1 })).map
      fun t => [statusWord t, ctrlWord t]) = some [0x00000001#32, 0x00000100#32] := by decide +kernel

/-- V-B1, V-B2, V-B3, V-B4. -/
theorem test_reads_after_reset :
    [0x030#32, 0x034#32, 0x02C#32, 0x03C#32, 0x080#32, 0x058#32, 0x480#32, 0x7FC#32].map (memRead State.reset) =
      [0x04001812#32, 0x00AA2DD4#32, 0#32, 0#32, 0#32, 0#32, 0#32, 0#32] := by decide +kernel

/-! Witnesses: for each statement with hypotheses, states and operands that meet them, one for each clause. -/

/-- The next move is a write. -/
def writing (s : State) (addr v : Word) : State := { s with tape := [.write addr v] }

/-- A command of this code is running. -/
def running (code : Nibble) : State := State.reset.started code false false

theorem layoutWf_reference : layoutWf referenceLayout = true := by decide

theorem reset_ready : ReadyForGo State.reset := ⟨by decide, rfl, rfl⟩

theorem ready_of (s : State) (hl : s.layout = referenceLayout) (hr : s.inReset = false) (hb : s.busy = false) :
    ReadyForGo s := ⟨hl ▸ (by decide), hr, hb⟩

theorem witness_EncodedInstructionDecodesBack :
    (Instr.reserved 0x8#4 true false).wf = true ∧ (Instr.reserved 0xF#4 false true).wf = true ∧
    (Instr.ack 0xF#4 true true).wf = true := by decide

theorem witness_EveryWordSelectsExactlyOneRow : 0 < opcodeRows.length ∧ 10 < opcodeRows.length := by decide

theorem witness_PseudoInstructionsExpandAsListed : 0 < (1 + 31) / 32 ∧ 5 < (176 + 31) / 32 ∧ 0 < 8 ∧ 7 < 8 := by decide

/-- The lowest and the highest address that reach CTRL by bits [10:2]. -/
theorem witness_StepRunsTheDecodedCtrlWrite :
    ∀ addr ∈ [0x000#32, 0xFFFFF803#32], ∃ (s : State) (i : Instr), layoutWf s.layout = true ∧ s.inReset = false ∧
      s.tape = .write addr (encode i) :: [] ∧ addr.extractLsb' 2 9 = 0 ∧ i.wf = true := by
  intro addr h
  refine ⟨writing State.reset addr (encode (.fields true false)), .fields true false, layoutWf_reference, rfl, rfl, ?_, rfl⟩
  simp only [List.mem_cons, List.not_mem_nil, or_false] at h
  rcases h with rfl | rfl <;> decide

theorem witness_GoWriteStartsItsCommand :
    State.reset.busy = false ∧ (Instr.reserved 0x8#4 false false).wf = true ∧ (Instr.reserved 0xF#4 false false).wf = true := by
  decide

theorem witness_GoWriteWhileBusyIsLost : (running 0x1).busy = true := rfl

/-- ROW_LEN, the first and the last BUF word, a GO word and one without GO. -/
theorem witness_WritesWhileBusyAreLost :
    layoutWf (running 0x1).layout = true ∧ (running 0x1).inReset = false ∧ (running 0x1).busy = true ∧
    (writing (running 0x1) 0x47C 5).tape = .write 0x47C 5 :: [] ∧
    ((0x008#32).extractLsb' 2 9).toNat = 2 ∧
    (0 < (running 0x1).layout.capBits / 32 ∧ ((0x400#32).extractLsb' 2 9).toNat = 256 + 0) ∧
    (31 < (running 0x1).layout.capBits / 32 ∧ ((0x47C#32).extractLsb' 2 9).toNat = 256 + 31) ∧
    (((0x000#32).extractLsb' 2 9).toNat = 0 ∧ (0x12#32).getLsbD 4 = true ∧ (0x120#32).getLsbD 4 = false) := by
  decide

theorem witness_AckStoresFieldsAndClearsDone : State.reset.busy = false ∧ (running 0x1).busy = true := ⟨rfl, rfl⟩

theorem witness_SetctrlStoresItsFields :
    ∃ s t : State, s.done = true ∧ exec (.setctrl 0x0#4 true false) s = .next t :=
  ⟨{ State.reset with done := true }, _, rfl, rfl⟩

theorem witness_CtrlWriteFrame : ∃ s t : State, s.ovr = true ∧ exec (.sync false false) s = .next t :=
  ⟨{ State.reset with ovr := true }, _, rfl, rfl⟩

theorem witness_NopRunsToCompletion : ReadyForGo State.reset := reset_ready
theorem witness_ClearRunsToCompletion : ReadyForGo { State.reset with ovr := true } := ready_of _ rfl rfl rfl

theorem witness_ReservedCodeRunsToIllegalCommand : ReadyForGo State.reset ∧ (Instr.reserved 0x8#4 false false).wf = true :=
  ⟨reset_ready, rfl⟩

/-- LEN one above the capacity, LEN = 23 (V-S2), and a match that ends exactly at LEN (V-S1 and V-S4). -/
theorem witness_SyncRunsToCompletion :
    (ReadyForGo (loaded [] 1025) ∧ (loaded [] 1025).layout.capBits < (loaded [] 1025).rowLen.toNat) ∧
    (let s := loaded [0xAA2DD400] 23
     ReadyForGo s ∧ s.rowLen.toNat ≤ s.layout.capBits ∧ ∀ p, ¬ PreambleAt s s.rowLen.toNat p) ∧
    (let s := loaded [0xAA2DD400] 24
     ReadyForGo s ∧ s.rowLen.toNat ≤ s.layout.capBits ∧ FirstPreambleAt s s.rowLen.toNat 0) ∧
    (let s := loaded [0x155545BA, 0x80000000] 35
     ReadyForGo s ∧ s.rowLen.toNat ≤ s.layout.capBits ∧ FirstPreambleAt s s.rowLen.toNat 11) := by
  refine ⟨⟨ready_of _ rfl rfl rfl, by decide⟩, ⟨ready_of _ rfl rfl rfl, by decide, ?_⟩,
    ⟨ready_of _ rfl rfl rfl, by decide, ?_⟩, ⟨ready_of _ rfl rfl rfl, by decide, ?_⟩⟩
  · exact syncSearch_eq_none.1 (by decide +kernel)
  · obtain ⟨p, hp, he⟩ := (syncSearch_eq_some (off := 24)).1 (show syncSearch (loaded [0xAA2DD400] 24) 24 = some 24 by decide +kernel)
    obtain rfl : p = 0 := by change 24 = p + 24 at he; omega
    exact hp
  · obtain ⟨p, hp, he⟩ := (syncSearch_eq_some (off := 35)).1
      (show syncSearch (loaded [0x155545BA, 0x80000000] 35) 35 = some 35 by decide +kernel)
    obtain rfl : p = 11 := by change 35 = p + 24 at he; omega
    exact hp

/-- Another STAGE, one bit too few (V-E5), and exactly enough (V-E4's 171 bits). -/
theorem witness_ExtractRunsToCompletion :
    (ReadyForGo State.reset ∧ State.reset.res.stage ≠ .synced) ∧
    (let s := { syncedB with rowLen := 170 }
     ReadyForGo s ∧ s.res.stage = .synced ∧ s.rowLen.toNat < s.res.syncOff.toNat + 8 * s.layout.frameLen) ∧
    (let s := { syncedB with rowLen := 171 }
     ReadyForGo s ∧ s.res.stage = .synced ∧ s.res.syncOff.toNat + 8 * s.layout.frameLen ≤ s.rowLen.toNat) :=
  ⟨⟨reset_ready, by decide⟩, ⟨ready_of _ rfl rfl rfl, by decide, by decide⟩, ⟨ready_of _ rfl rfl rfl, by decide, by decide⟩⟩

/-- Another STAGE, V-V2, V-V11 and V-V1. -/
theorem witness_VerifyRunsToCompletion :
    State.reset.res.stage ≠ .extracted ∧ (∀ f, ReadyForGo (holding (extracted f)) ∧ (extracted f).stage = .extracted) ∧
    crc16 (payload referenceLayout corruptA) ≠ crcReceived referenceLayout corruptA ∧
    (let f := bytesOf badChecksum
     crc16 (payload referenceLayout f) = crcReceived referenceLayout f ∧
       checksum (payload referenceLayout f) ≠ csumReceived referenceLayout f) ∧
    crc16 (payload referenceLayout frameA) = crcReceived referenceLayout frameA ∧
    checksum (payload referenceLayout frameA) = csumReceived referenceLayout frameA :=
  ⟨by decide, fun f => ⟨ready_of _ rfl rfl rfl, rfl⟩, by decide +kernel, by decide +kernel, by decide +kernel,
    by decide +kernel⟩

/-- Another STAGE, V-D3, V-D5, V-D1 and V-D2. -/
theorem witness_DispatchRunsToCompletion :
    State.reset.res.stage ≠ .verified ∧ (∀ f, ReadyForGo (holding (verified f)) ∧ (verified f).stage = .verified) ∧
    frameByte (bytesOf badFamily) 6 ≠ referenceLayout.famVal ∧
    (frameByte (bytesOf badType) 6 = referenceLayout.famVal ∧
      ∀ v, (frameByte (bytesOf badType) 7, v) ∉ referenceLayout.typeMap) ∧
    (frameByte frameA 6 = referenceLayout.famVal ∧
      referenceLayout.typeMap.lookup (frameByte frameA 7) = some .soilStep16) ∧
    (frameByte frameB 6 = referenceLayout.famVal ∧
      referenceLayout.typeMap.lookup (frameByte frameB 7) = some .soilPercent) := by
  refine ⟨by decide, fun f => ⟨ready_of _ rfl rfl rfl, rfl⟩, by decide +kernel, ⟨by decide +kernel, fun v => ?_⟩,
    by decide +kernel, by decide +kernel⟩
  cases v <;> decide +kernel

/-- Channels 0 and 8, 1 and 7 (V-F2a, V-F2b, V-F1b, V-F1c); moisture indices 0 and 17, 1 and 16 (V-F3a to V-F3d); direct
moisture; both signs (V-F1a, V-F4a). -/
theorem witness_FieldsRunsToCompletion :
    State.reset.res.stage ≠ .dispatched ∧
    (∀ f v, ReadyForGo (holding (dispatched f v)) ∧ (dispatched f v).stage = .dispatched ∧ (dispatched f v).var = some v) ∧
    (let G := referenceLayout.step16
     (frameNib (bytesOf badChannel) G.chan).toNat = 0 ∧ (frameNib (frameA.set 8 0x08#8) G.chan).toNat = 8 ∧
     (frameNib (frameA.set 8 0x01#8) G.chan).toNat = 1 ∧ (frameNib (frameA.set 8 0xF7#8) G.chan).toNat = 7 ∧
     G.mstMode = .table ∧ moistureRaw G (frameA.set 15 0x00#8) = 0 ∧ moistureRaw G (frameA.set 15 0x17#8) = 17 ∧
     moistureRaw G (frameA.set 15 0x01#8) = 1 ∧ moistureTable[1 - 1]? = some 0 ∧
     moistureRaw G (frameA.set 15 0x16#8) = 16 ∧ moistureTable[16 - 1]? = some 99 ∧
     frameBit frameA G.statPos G.signBit = false ∧ temperature G frameA = 234) ∧
    (let G := referenceLayout.percent
     G.mstMode = .direct ∧ moistureRaw G frameB = 47 ∧ 1 ≤ (frameNib frameB G.chan).toNat ∧
     (frameNib frameB G.chan).toNat ≤ 7 ∧ frameBit frameB G.statPos G.signBit = true ∧ temperature G frameB = -57) :=
  ⟨by decide, fun f v => ⟨ready_of _ rfl rfl rfl, rfl, rfl⟩, by decide +kernel, by decide +kernel⟩

/-- The V inputs whose DECODE ends at the CRC, the checksum, the family, the type, the channel and the moisture index, and
two that end OK: each has its first match at 8 and its frame at 32. -/
def decodeInputs : List (List Word) :=
  [badCrc, badChecksum, badFamily, badType, badChannel, badMoisture, wordsA, wordsB]

theorem decodeInputs_search : ∀ w ∈ decodeInputs,
    syncSearch (inputOf w) 176 = some 32 ∧ extractFrame (inputOf w) 32 = bytesOf w := by decide +kernel

theorem inputOf_frame {w : List Word} (hw : w ∈ decodeInputs) :
    FirstPreambleAt (inputOf w) 176 8 ∧ IsFrameAt (inputOf w) 32 (bytesOf w) := by
  obtain ⟨h1, h2⟩ := decodeInputs_search w hw
  obtain ⟨p, hp, he⟩ := syncSearch_eq_some.1 h1
  obtain rfl : p = 8 := by change 32 = p + 24 at he; omega
  exact ⟨hp, h2 ▸ isFrameAt_extractFrame _ _⟩

theorem witness_DecodeRunsThePipelineInOrder :
    (ReadyForGo (loaded [] 1025) ∧ (loaded [] 1025).layout.capBits < (loaded [] 1025).rowLen.toNat) ∧
    (let s := loaded [0xAA2DD400] 23
     ReadyForGo s ∧ s.rowLen.toNat ≤ s.layout.capBits ∧ ∀ p, ¬ PreambleAt s s.rowLen.toNat p) ∧
    (∀ w ∈ decodeInputs, ReadyForGo (inputOf w) ∧ (inputOf w).rowLen.toNat ≤ (inputOf w).layout.capBits ∧
      FirstPreambleAt (inputOf w) (inputOf w).rowLen.toNat 8 ∧ IsFrameAt (inputOf w) (8 + 24) (bytesOf w)) ∧
    (let lay := referenceLayout
     (8 + lay.preLen + 8 * lay.frameLen ≤ 176 ∧ 175 < 8 + lay.preLen + 8 * lay.frameLen) ∧
     crc16 (payload lay (bytesOf badCrc)) ≠ crcReceived lay (bytesOf badCrc) ∧
     checksum (payload lay (bytesOf badChecksum)) ≠ csumReceived lay (bytesOf badChecksum) ∧
     (∀ w ∈ [badFamily, badType, badChannel, badMoisture, wordsA, wordsB],
       crc16 (payload lay (bytesOf w)) = crcReceived lay (bytesOf w) ∧
       checksum (payload lay (bytesOf w)) = csumReceived lay (bytesOf w)) ∧
     frameByte (bytesOf badFamily) 6 ≠ lay.famVal ∧
     (frameByte (bytesOf badType) 6 = lay.famVal ∧ typeVariant lay.typeMap (frameByte (bytesOf badType) 7) = none) ∧
     (∀ w ∈ [badChannel, badMoisture, wordsA], frameByte (bytesOf w) 6 = lay.famVal ∧
       typeVariant lay.typeMap (frameByte (bytesOf w) 7) = some .soilStep16) ∧
     channelValid (frameNib (bytesOf badChannel) lay.step16.chan) = false ∧
     channelValid (frameNib (bytesOf badMoisture) lay.step16.chan) = true ∧
     moisture .table (moistureRaw lay.step16 (bytesOf badMoisture)) = none ∧
     channelValid (frameNib frameA lay.step16.chan) = true ∧ moisture .table (moistureRaw lay.step16 frameA) = some 47) := by
  refine ⟨witness_SyncRunsToCompletion.1, witness_SyncRunsToCompletion.2.1,
    fun w hw => ⟨ready_of _ rfl rfl rfl, ?_, (inputOf_frame hw).1, (inputOf_frame hw).2⟩, by decide +kernel⟩
  show (176#16).toNat ≤ 1024
  decide

theorem witness_StepwiseRunEqualsDecode : ReadyForGo (inputOf wordsA) := ready_of _ rfl rfl rfl
theorem witness_DecodeTwiceGivesTheSameState : ReadyForGo (inputOf wordsA) := ready_of _ rfl rfl rfl

/-- The second block comes from another power-up draw and has run other commands. -/
theorem witness_DecodeDependsOnlyOnItsInput :
    let s := inputOf wordsA
    let s' := { inputOf wordsA with powerUp := 1, ovr := true, lastCmd := 0x7, res := dispatched frameB .soilPercent }
    ReadyForGo s ∧ ReadyForGo s' ∧ s.layout = s'.layout ∧ s.rowLen = s'.rowLen ∧
      ∀ i, i < s.rowLen.toNat → bufBit s i = bufBit s' i := by
  refine ⟨ready_of _ rfl rfl rfl, ready_of _ rfl rfl rfl, rfl, rfl, ?_⟩
  show ∀ i, i < 176 → _
  decide +kernel

/-- Every command code completes in some state, the step commands with and without the interlock. -/
theorem witness_CompletionsGiveOnlyTheirCodes :
    ∀ c ∈ [0x0#4, 0x1#4, 0x2#4, 0x3#4, 0x4#4, 0x5#4, 0x6#4, 0x7#4, 0x8#4, 0xF#4],
      (running c).completesNow ∧ (running c).cur = c ∧ ∃ t, step (running c) = .next t := by
  intro c hc
  refine ⟨⟨rfl, rfl, .inl rfl⟩, rfl, ?_⟩
  obtain ⟨t, ht, -⟩ := exists_next (o := step (running c)) (fun _ => true) (by revert c; decide +kernel)
  exact ⟨t, ht⟩

theorem witness_CompletionFrame : (running 0x7).completesNow ∧ ∃ t, step (running 0x7) = .next t :=
  ⟨⟨rfl, rfl, .inl rfl⟩, _, rfl⟩

/-- ROW_LEN, and the first and last word of the window. -/
theorem witness_InputWriteStoresAndResetsStage :
    layoutWf State.reset.layout = true ∧ State.reset.inReset = false ∧ State.reset.busy = false ∧
    (writing State.reset 0x47C 5).tape = .write 0x47C 5 :: [] ∧
    ((0x008#32).extractLsb' 2 9).toNat = 2 ∧
    (0 < State.reset.layout.capBits / 32 ∧ ((0x400#32).extractLsb' 2 9).toNat = 256 + 0) ∧
    (31 < State.reset.layout.capBits / 32 ∧ ((0x47C#32).extractLsb' 2 9).toNat = 256 + 31) := by decide

/-- Words 31 and 32 stand on the two sides of the window's end; 255 is the last word of the space. -/
theorem witness_BufWindowIsOneBitStream :
    layoutWf State.reset.layout = true ∧ State.reset.inReset = false ∧ State.reset.busy = false ∧
    ((0x47C#32).extractLsb' 2 9).toNat = 256 + 31 ∧ 31 < State.reset.layout.capBits / 32 ∧
    ((0x480#32).extractLsb' 2 9).toNat = 256 + 32 ∧ State.reset.layout.capBits / 32 ≤ 32 ∧
    ((0x7FC#32).extractLsb' 2 9).toNat = 256 + 255 := by decide

theorem witness_ReservedAndReadOnlyOffsets :
    layoutWf State.reset.layout = true ∧
    (((0x004#32).extractLsb' 2 9).toNat = 1 ∧ 1 ≠ 0 ∧ 1 ≠ 2 ∧ 1 < 256) ∧
    ((0x02C#32).extractLsb' 2 9).toNat = 11 ∧ ((0x038#32).extractLsb' 2 9).toNat = 14 ∧
    ((0x03C#32).extractLsb' 2 9).toNat = 15 ∧ ((0x080#32).extractLsb' 2 9).toNat = 32 ∧
    (((0x3FC#32).extractLsb' 2 9).toNat = 255 ∧ 255 ≠ 0 ∧ 255 ≠ 2 ∧ 255 < 256) := by decide

theorem witness_ReadsHaveNoSideEffect :
    layoutWf State.reset.layout = true ∧ ({ State.reset with tape := [.read 0x004] } : State).tape = .read 0x004 :: [] := by
  decide

/-- BUSY = 1 fails WAIT's condition, BUSY = 0 with DONE = 1 meets it. -/
theorem witness_PollAndExpectReadAndTest :
    let fails : State := { running 0x1 with tape := [.poll 0x004 0x3 0x2] }
    let holds : State := { State.reset with done := true, tape := [.poll 0x004 0x3 0x2] }
    layoutWf fails.layout = true ∧ layoutWf holds.layout = true ∧ fails.tape = .poll 0x004 0x3 0x2 :: [] ∧
    memRead fails 0x004 &&& 0x3 ≠ 0x2 ∧ holds.tape = .poll 0x004 0x3 0x2 :: [] ∧ memRead holds 0x004 &&& 0x3 = 0x2 ∧
    ({ State.reset with tape := [.expect 0x004 0xF0 0] } : State).tape = .expect 0x004 0xF0 0 :: [] :=
  ⟨layoutWf_reference, layoutWf_reference, rfl, by decide +kernel, rfl, by decide +kernel, rfl⟩

theorem witness_OnlyAddressBits10To2Matter : (0x004#32).extractLsb' 2 9 = (0xFFFFF807#32).extractLsb' 2 9 := by decide

theorem witness_StatusWordCarriesItsFields : State.reset.inReset = false := rfl
theorem witness_RegisterWordsCarryTheirFields : State.reset.inReset = false := rfl

/-- The first and the last byte of the window. -/
theorem witness_FrameAndIdentifierWindows :
    State.reset.inReset = false ∧ 0 < 16 ∧ 15 < 16 ∧ 3 < 4 ∧ ((0x040#32).extractLsb' 2 9).toNat = 16 + 0 ∧
    ((0x07C#32).extractLsb' 2 9).toNat = 16 + 15 := by decide

theorem witness_InfoAndPreambleAreConstant :
    layoutWf State.reset.layout = true ∧ State.reset.inReset = false ∧ ∃ t, step State.reset = .next t :=
  ⟨by decide, rfl, _, rfl⟩

theorem witness_IdleBlockHoldsItsState :
    layoutWf State.reset.layout = true ∧ State.reset.busy = false ∧ State.reset.tape = [] ∧
    ({ State.reset with tape := [.core] } : State).tape = .core :: [] := ⟨layoutWf_reference, rfl, rfl, rfl⟩

theorem witness_HostMovesLeaveResultsWhileBusy :
    let s := writing (running 0x1) 0x008 5
    s.busy = true ∧ s.tape = .write 0x008 5 :: [] ∧ (Move.write 0x008 5).isHost = true ∧ ∃ t, step s = .next t :=
  ⟨rfl, rfl, rfl, _, rfl⟩

theorem witness_HostMovesDoNotAffectTheCommandInFlight :
    let s := running 0x0
    s.busy = true ∧ s.inReset = false ∧ (Move.write 0x008 5).isHost = true ∧ s.tape = [] ∧
    ∃ t u v, step { s with tape := [.write 0x008 5, .core] } = .next t ∧ step { t with tape := [.core] } = .next u ∧
      step { s with tape := [.core] } = .next v :=
  ⟨rfl, rfl, rfl, rfl, _, _, _, rfl, rfl, rfl⟩

/-- ROW_LEN, and the first and last word of the window. -/
theorem witness_InputWriteVoidsTheChain :
    (ReadyForGo (writing State.reset 0x008 5) ∧ (writing State.reset 0x008 5).writesNow 2 5) ∧
    (ReadyForGo (writing State.reset 0x400 5) ∧ (writing State.reset 0x400 5).writesNow 256 5 ∧
      256 - 256 < State.reset.layout.capBits / 32) ∧
    (ReadyForGo (writing State.reset 0x47C 5) ∧ (writing State.reset 0x47C 5).writesNow 287 5 ∧
      287 - 256 < State.reset.layout.capBits / 32) :=
  ⟨⟨ready_of _ rfl rfl rfl, rfl, _, _, rfl, by decide⟩, ⟨ready_of _ rfl rfl rfl, ⟨rfl, _, _, rfl, by decide⟩, by decide⟩,
    ⟨ready_of _ rfl rfl rfl, ⟨rfl, _, _, rfl, by decide⟩, by decide⟩⟩

/-- One step for each flag and each way it changes: BUSY set and cleared, DONE set and cleared, OVR set and cleared, CRC_OK
set. -/
theorem witness_FlagsChangeOnlyByTheirEvents :
    (∃ s t : State, step s = .next t ∧ s.busy = false ∧ t.busy = true) ∧
    (∃ s t : State, step s = .next t ∧ s.busy = true ∧ t.busy = false) ∧
    (∃ s t : State, step s = .next t ∧ s.done = false ∧ t.done = true) ∧
    (∃ s t : State, step s = .next t ∧ s.done = true ∧ t.done = false) ∧
    (∃ s t : State, step s = .next t ∧ s.ovr = false ∧ t.ovr = true) ∧
    (∃ s t : State, step s = .next t ∧ s.ovr = true ∧ t.ovr = false) ∧
    (∃ s t : State, step s = .next t ∧ t.res.crcOk ≠ s.res.crcOk) := by
  refine ⟨⟨writing State.reset 0x000 0x10, _, rfl, rfl, rfl⟩, ⟨running 0x0, _, rfl, rfl, rfl⟩, ⟨running 0x0, _, rfl, rfl, rfl⟩,
    ⟨writing { State.reset with done := true } 0x000 0x20, _, rfl, rfl, rfl⟩, ⟨writing (running 0x0) 0x008 5, _, rfl, rfl, rfl⟩,
    ⟨{ running 0x7 with ovr := true }, _, rfl, rfl, rfl⟩, ?_⟩
  obtain ⟨t, h1, h2⟩ := exists_next (o := step ((holding (extracted frameA)).started 0x4 false false)) (fun t => t.res.crcOk)
    (by decide +kernel)
  exact ⟨_, t, h1, by rw [h2]; decide⟩

theorem witness_InterruptIsDoneAndEnable :
    State.reset.ctrl.ie = false ∧ State.reset.busy = false ∧ (∃ t, exec (.ack 0 true false) State.reset = .next t) ∧
    ((encode (.sync true false)).getLsbD 4 = true ∧ ∃ t, exec (.sync true false) State.reset = .next t) ∧
    (∃ t, exec (.setctrl 0 true false) { State.reset with done := true } = .next t) ∧
    ∃ t, step { State.reset with tape := [.resetInput true] } = .next t :=
  ⟨rfl, rfl, ⟨_, rfl⟩, ⟨by decide, _, rfl⟩, ⟨_, rfl⟩, _, rfl⟩

theorem witness_ResetInputHoldsResetValues :
    ∀ m ∈ [Move.resetInput true, .resetInput false, .write 0x008 5, .read 0x004, .core],
      ∃ s : State, layoutWf s.layout = true ∧ s.inReset = true ∧ s.tape = m :: [] :=
  fun m _ => ⟨{ State.reset with inReset := true, tape := [m] }, layoutWf_reference, rfl, rfl⟩

/-- An unwritten byte, and an input write that changes one. -/
theorem witness_BufBytesChangeOnlyByInputWrites :
    State.reset.buf.read 0 = none ∧ State.reset.buf.read 127 = none ∧
    ∃ s t : State, step s = .next t ∧ bufByte t 0 ≠ bufByte s 0 :=
  ⟨rfl, rfl, writing (loaded [0xAA2DD400] 24) 0x400 0, _, rfl, by decide +kernel⟩

/-- The registers after a DECODE of frame A, as V-X1 gives them. -/
def readingA : Results :=
  { stage := .decoded, crcOk := true, csumOk := true, syncOff := 0x20, frame := frameA, crcCalc := 0x8421, crcRx := 0x8421,
    csumCalc := 0x68, csumRx := 0x68, var := some .soilStep16, family := 0x10, typ := 0x02, channel := 3, battOk := true,
    sign := false, temp := 0x00EA, moist := 0x2F, mraw := 0x08, id0 := 0x12345678, id1 := 0 }

theorem readingA_decoded : pipeline (inputOf wordsA) = .goOn readingA := by decide +kernel

/-- The block after a DECODE of frame A: its reading is valid and it meets the invariant. -/
def decodedA : State := { inputOf wordsA with res := readingA }

theorem decodedA_inv (tape : List Move) : State.Inv { decodedA with tape := tape } := by
  have h : ResultsSound (inputOf wordsA) readingA := Flow.Leaves.of_goOn (pipeline_sound _) readingA_decoded
  exact
    { layout := layoutWf_reference
      bufWf := by show (inputOf wordsA).buf.wf = true; decide +kernel
      bufBound := by show ∀ c ∈ (inputOf wordsA).buf, c.1 < referenceLayout.capBits / 8; decide +kernel
      frameLen := h.1
      cls := rfl
      busyDone := fun hb => by cases hb
      reset := fun hr => by cases hr
      stage := stageSound_congr h.2 rfl rfl rfl rfl rfl }

theorem witness_StepKeepsInvariant :
    State.Inv { decodedA with tape := [.write 0x008 5] } ∧ ∃ t, step { decodedA with tape := [.write 0x008 5] } = .next t :=
  ⟨decodedA_inv _, _, rfl⟩

theorem witness_BuiltBlockMeetsInvariant : ∃ s, State.build { referenceLayout with capBits := 8192 } 7 = some s := ⟨_, rfl⟩

theorem witness_InvariantStateAlwaysSteps : State.Inv { decodedA with tape := [] } := decodedA_inv []

theorem witness_StartedCommandCompletes :
    ∃ s : State, State.Inv s ∧ s.busy = true ∧ s.tape = [.poll 0x004 0x3 0x2] ∧
      ∀ asserted, Move.resetInput asserted ∉ s.tape := by
  have h := decodedA_inv [.poll 0x004 0x3 0x2]
  refine ⟨{ decodedA with tape := [.poll 0x004 0x3 0x2], busy := true, cur := 0x6 }, ?_, rfl, rfl, by simp⟩
  exact ⟨h.layout, h.bufWf, h.bufBound, h.frameLen, h.cls, fun _ => rfl, (fun hr => by cases hr),
    stageSound_congr h.stage rfl rfl rfl rfl rfl⟩

/-- P1 (95_test_vectors.md): the host loads frame A and starts DECODE, and the reading is valid after it. -/
theorem witness_ReachableReadingPassedEveryCheck :
    let tape := [Move.write 0x400 0xAAAA2DD4, .write 0x404 0x84211234, .write 0x408 0x56781002, .write 0x40C 0x03000000,
      .write 0x410 0x23420108, .write 0x414 0x00680000, .write 0x008 0xB0, .write 0x000 0x11]
    layoutWf referenceLayout = true ∧
    ∃ t, Host.Core.run Sys2Proof.core 9 { State.resetWith referenceLayout 0 with tape := tape } = .next t ∧
      readingValid t.res = true := by
  intro tape
  exact ⟨by decide, exists_next (fun t => readingValid t.res) (by decide +kernel)⟩

/-- A reading whose input was then written to, so that STAGE is 0 and VARIANT stays, cleared by CLEAR. -/
theorem witness_SelectedVariantIsFixed :
    ∃ s t : State, s.res.stage = .none ∧ s.res.var = some .soilStep16 ∧ step s = .next t ∧ t.res.var ≠ s.res.var ∧
      t.res.family ≠ s.res.family ∧ t.res.typ ≠ s.res.typ :=
  ⟨{ decodedA with busy := true, cur := 0x7, res := { readingA with stage := .none } }, _, rfl, rfl, rfl, by decide +kernel⟩

/-- F[12] = 0x24 (V-V2), and the first and last byte of the payload (V-V4, V-V7). -/
theorem witness_CorruptedPayloadByteFailsBothChecks :
    layoutWf referenceLayout = true ∧ IntegrityPasses referenceLayout frameA ∧
    ∀ c ∈ [(12, 0x24#8), (2, 0x13#8), (16, 0x01#8)],
      2 ≤ c.1 ∧ c.1 ≤ 16 ∧ c.1 ≠ 0 ∧ c.1 ≠ 0 + 1 ∧ c.1 ≠ 17 ∧ frameByte frameA c.1 ≠ frameByte (frameA.set c.1 c.2) c.1 ∧
      ∀ j, j ≠ c.1 → frameByte frameA j = frameByte (frameA.set c.1 c.2) j := by
  refine ⟨by decide, ⟨by decide +kernel, by decide +kernel⟩, fun c hc => ?_⟩
  have h : 2 ≤ c.1 ∧ c.1 ≤ 16 ∧ c.1 ≠ 0 ∧ c.1 ≠ 0 + 1 ∧ c.1 ≠ 17 ∧
      frameByte frameA c.1 ≠ frameByte (frameA.set c.1 c.2) c.1 := by revert c; decide +kernel
  exact ⟨h.1, h.2.1, h.2.2.1, h.2.2.2.1, h.2.2.2.2.1, h.2.2.2.2.2, fun j hj => by
    simp [frameByte, List.getD, Ne.symm hj]⟩

/-- V-F1a, V-F4a and the negative zero of V-F5c. -/
theorem witness_TemperatureIsRecoveredFromTemp :
    let g := referenceLayout.percent
    let z := (frameB.set 12 0x00#8).set 13 0x00#8
    frameBit frameA g.statPos g.signBit = false ∧ frameBit frameB g.statPos g.signBit = true ∧
    frameBit z g.statPos g.signBit = true ∧ frameNib z g.negA = 0 ∧ frameNib z g.negB = 0 := by decide +kernel

theorem witness_MoistureTableMapsEveryIndex : 17 ≤ 17 := le_rfl

/-- Frame B at bit 27 of one buffer and at bit 32 of another (V-E3). -/
theorem witness_FrameIgnoresItsPositionInTheBuffer :
    shiftedB.layout = (inputOf wordsB).layout ∧
    ∀ i, i < 8 * shiftedB.layout.frameLen → bufBit shiftedB (27 + i) = bufBit (inputOf wordsB) (32 + i) := by
  refine ⟨rfl, ?_⟩
  show ∀ i, i < 144 → _
  decide +kernel

/-- V-S3 and V-S4 at the smallest LEN, and two buffers equal below LEN = 24 only. -/
theorem witness_SearchCornerCases :
    ReadyForGo (loaded [0xAAAA2DD4] 32) ∧ ReadyForGo (loaded [0x155545BA, 0x80000000] 35) ∧
    referenceLayout.preLen = 24 ∧ referenceLayout.prePat = 0xAA2DD4#32 ∧ (32#16).toNat ≤ referenceLayout.capBits ∧
    bufWord (loaded [0xAAAA2DD4] 32) 0 = 0xAAAA2DD4#32 ∧ 32 ≤ 32 ∧
    bufWord (loaded [0x155545BA, 0x80000000] 35) 0 = 0x155545BA#32 ∧
    bufWord (loaded [0x155545BA, 0x80000000] 35) 1 = 0x80000000#32 ∧ 35 ≤ 35 ∧
    ∀ i, i < 24 → bufBit (loaded [0xAA2DD400] 24) i = bufBit (loaded [0xAA2DD4FF] 24) i :=
  ⟨ready_of _ rfl rfl rfl, ready_of _ rfl rfl rfl, by decide +kernel⟩

/-- V-F1a and V-F7: the check bytes 0, 1 and 17 differ as well. -/
theorem witness_IdentifierBytesChangeOnlyTheIdentifier :
    let r := dispatched frameA .soilStep16
    let g := bytesOf [0x61CFABCD, 0xEF011002, 0x03000000, 0x23420108, 0x00140000]
    layoutWf referenceLayout = true ∧ r.var = some .soilStep16 ∧
    (let G := referenceLayout.step16
     ∀ k ∈ [G.chan.index, G.statPos, G.t0Pos, G.t1Pos, G.negA.index, G.negB.index, G.mstPos],
      frameByte r.frame k = frameByte g k) ∧
    (∃ j, j < referenceLayout.idLen ∧
      frameByte r.frame (referenceLayout.idPos + j) ≠ frameByte g (referenceLayout.idPos + j)) ∧
    ∃ t, bodyFields (holding r) r = .goOn t := by
  refine ⟨layoutWf_reference, rfl, by decide +kernel, ⟨0, by decide, by decide +kernel⟩, ?_⟩
  rcases bodyFields_cases (holding (dispatched frameA .soilStep16)) (r := dispatched frameA .soilStep16) rfl with
    ⟨h, -⟩ | ⟨-, h, -⟩ | ⟨-, m, -, h⟩
  · exact absurd h (by decide +kernel)
  · exact absurd h (by decide +kernel)
  · exact ⟨_, h⟩

end Sys2Proof.Tests
end

section
/-! PROOFS. The block after build and reset (spec/00_scope.md R8, spec/10_state.md R49): what `State.build` answers, and that the block it answers meets the invariant. -/

namespace Sys2Proof.Machine

/-- R8: a block is built exactly from a well-formed LAYOUT, and it is then the reset block. -/
theorem State.build_eq_some_iff {lay : Layout} {powerUp : Nat} {s : State} :
    State.build lay powerUp = some s ↔ layoutWf lay = true ∧ State.resetWith lay powerUp = s := by
  simp [State.build]

/-- The tape is no part of the soundness of STAGE, and the reset block's result registers are the cleared ones. -/
theorem stageSound_resetWith (lay : Layout) (powerUp : Nat) (tape : List Move) :
    StageSound { State.resetWith lay powerUp with tape := tape } :=
  (resultsSound_cleared { State.resetWith lay powerUp with tape := tape }).2

theorem inv_resetWith {lay : Layout} (hl : layoutWf lay = true) (powerUp : Nat) (tape : List Move) :
    State.Inv { State.resetWith lay powerUp with tape := tape } where
  layout := hl
  bufWf := rfl
  bufBound := by simp [State.resetWith]
  frameLen := List.length_replicate
  cls := rfl
  busyDone := fun _ => rfl
  reset := fun _ => rfl
  stage := stageSound_resetWith lay powerUp tape

theorem inv_of_build {lay : Layout} {powerUp : Nat} {s : State} (h : State.build lay powerUp = some s)
    (tape : List Move) : State.Inv { s with tape := tape } := by
  obtain ⟨hl, rfl⟩ := State.build_eq_some_iff.1 h
  exact inv_resetWith hl powerUp tape

theorem build_reference : State.build referenceLayout 0 = some State.reset :=
  State.build_eq_some_iff.2 ⟨by decide, rfl⟩

/-- Settles O47: a built block is the reset block of a well-formed LAYOUT, whose result registers are the cleared ones
(STAGE = 0), and the invariant does not read the tape. -/
theorem builtBlockMeetsInvariant : Obligations.BuiltBlockMeetsInvariant := by
  unfold Obligations.BuiltBlockMeetsInvariant
  exact ⟨fun _ _ _ tape h => inv_of_build h tape, build_reference, inv_of_build build_reference []⟩

end Sys2Proof.Machine
end

section
/-! PROOFS. The register words by their fields (spec/10_state.md R32 to R44): a word is its fields put one above the other, and a read of an offset outside reset answers the word of the register that stands there (spec/20_memory.md R72). -/

namespace Sys2Proof.Machine

theorem memRead_of_noReset {s : State} (h : s.inReset = false) (addr : Word) :
    memRead s addr = readTarget s (targetOf (wordIndex addr)) := by
  simp [memRead, h]

/-! The numbers of STATUS and VARIANT fit the bits that carry them. -/

theorem resultNum_lt (c : ResultCode) : resultNum c < 2 ^ 4 := by cases c <;> decide
theorem classNum_lt (c : ResultClass) : classNum c < 2 ^ 3 := by cases c <;> decide
theorem stageNum_lt (g : Stage) : stageNum g < 2 ^ 3 := by cases g <;> decide
theorem variantNum_lt (v : Option Variant) : variantNum v < 2 ^ 2 := by rcases v with _ | (_ | _) <;> decide

theorem readingValid_iff (r : Results) : readingValid r = true ↔ r.stage = .decoded := by
  simp [readingValid]

theorem statusWord_bits (s : State) :
    (statusWord s).getLsbD 0 = s.busy ∧ (statusWord s).getLsbD 1 = s.done ∧ (statusWord s).getLsbD 2 = s.ovr ∧
    (statusWord s).getLsbD 3 = irq s ∧ (statusWord s).getLsbD 11 = false ∧ (statusWord s).getLsbD 15 = false ∧
    (statusWord s).getLsbD 16 = s.res.crcOk ∧ (statusWord s).getLsbD 17 = s.res.csumOk ∧
    (statusWord s).getLsbD 18 = readingValid s.res ∧ (statusWord s).getLsbD 19 = false := by
  simp only [statusWord, BitVec.getLsbD_append]
  simp

theorem statusWord_fields (s : State) :
    (statusWord s).extractLsb' 4 4 = BitVec.ofNat 4 (resultNum s.result) ∧
    (statusWord s).extractLsb' 8 3 = BitVec.ofNat 3 (classNum s.cls) ∧
    (statusWord s).extractLsb' 12 3 = BitVec.ofNat 3 (stageNum s.res.stage) ∧
    (statusWord s).extractLsb' 20 4 = s.lastCmd ∧ (statusWord s).extractLsb' 24 8 = 0 := by
  simp (disch := decide) only [statusWord, BitVec.extractLsb'_append_eq_of_le, BitVec.extractLsb'_append_eq_of_add_le]
  simp

/-- Settles O33: STATUS is its fields put together, and each number fits its bits. -/
theorem statusWordCarriesItsFields : Obligations.StatusWordCarriesItsFields := by
  intro s
  obtain ⟨hbusy, hdone, hovr, hirq, h11, h15, hcrc, hcsum, hrv, h19⟩ := statusWord_bits s
  obtain ⟨hresult, hcls, hstage, hlast, htop⟩ := statusWord_fields s
  refine ⟨fun h => memRead_of_noReset h _, hbusy, hdone, hovr, hirq, ?_, ?_, h11, ?_, h15, hcrc, hcsum, ?_, h19, hlast,
    htop⟩
  · rw [hresult, BitVec.toNat_ofNat, Nat.mod_eq_of_lt (resultNum_lt _)]
  · rw [hcls, BitVec.toNat_ofNat, Nat.mod_eq_of_lt (classNum_lt _)]
  · rw [hstage, BitVec.toNat_ofNat, Nat.mod_eq_of_lt (stageNum_lt _)]
  · rw [hrv, Bool.eq_iff_iff, readingValid_iff, decide_eq_true_iff]

theorem ctrlWord_fields (s : State) :
    (ctrlWord s).extractLsb' 0 4 = s.ctrl.cmd ∧ (ctrlWord s).extractLsb' 4 4 = 0 ∧ (ctrlWord s).getLsbD 8 = s.ctrl.ie ∧
    (ctrlWord s).getLsbD 9 = s.ctrl.verbose ∧ (ctrlWord s).extractLsb' 10 22 = 0 := by
  simp (disch := decide) only [ctrlWord, BitVec.getLsbD_append,
    BitVec.extractLsb'_append_eq_of_le, BitVec.extractLsb'_append_eq_of_add_le]
  simp

theorem rowLenWord_fields (s : State) :
    (rowLenWord s).extractLsb' 0 16 = s.rowLen ∧ (rowLenWord s).extractLsb' 16 16 = 0 :=
  ⟨BitVec.extractLsb'_append_eq_right, BitVec.extractLsb'_append_eq_left⟩

theorem syncOffWord_fields (r : Results) :
    (syncOffWord r).extractLsb' 0 16 = r.syncOff ∧ (syncOffWord r).extractLsb' 16 16 = 0 :=
  ⟨BitVec.extractLsb'_append_eq_right, BitVec.extractLsb'_append_eq_left⟩

theorem crcWord_fields (r : Results) :
    (crcWord r).extractLsb' 0 16 = r.crcCalc ∧ (crcWord r).extractLsb' 16 16 = r.crcRx :=
  ⟨BitVec.extractLsb'_append_eq_right, BitVec.extractLsb'_append_eq_left⟩

theorem csumWord_fields (r : Results) :
    (csumWord r).extractLsb' 0 8 = r.csumCalc ∧ (csumWord r).extractLsb' 8 8 = r.csumRx ∧
    (csumWord r).extractLsb' 16 16 = 0 := by
  simp (disch := decide) only [csumWord, BitVec.extractLsb'_append_eq_of_le, BitVec.extractLsb'_append_eq_of_add_le]
  simp

theorem variantWord_fields (r : Results) :
    ((variantWord r).extractLsb' 0 2).toNat = variantNum r.var ∧ (variantWord r).extractLsb' 2 6 = 0 ∧
    (variantWord r).extractLsb' 8 8 = r.family ∧ (variantWord r).extractLsb' 16 8 = r.typ ∧
    (variantWord r).extractLsb' 24 8 = 0 := by
  simp (disch := decide) only [variantWord, BitVec.extractLsb'_append_eq_of_le, BitVec.extractLsb'_append_eq_of_add_le]
  simpa using variantNum_lt r.var

theorem reading0Word_fields (r : Results) :
    (reading0Word r).extractLsb' 0 4 = r.channel ∧ (reading0Word r).getLsbD 4 = r.battOk ∧
    (reading0Word r).getLsbD 5 = r.sign ∧ (reading0Word r).extractLsb' 6 10 = 0 ∧
    (reading0Word r).extractLsb' 16 16 = r.temp := by
  simp (disch := decide) only [reading0Word, BitVec.getLsbD_append,
    BitVec.extractLsb'_append_eq_of_le, BitVec.extractLsb'_append_eq_of_add_le]
  simp

theorem reading1Word_fields (r : Results) :
    (reading1Word r).extractLsb' 0 8 = r.moist ∧ (reading1Word r).extractLsb' 8 8 = r.mraw ∧
    (reading1Word r).extractLsb' 16 16 = 0 := by
  simp (disch := decide) only [reading1Word, BitVec.extractLsb'_append_eq_of_le, BitVec.extractLsb'_append_eq_of_add_le]
  simp

/-- Settles O34: each offset of R72 reads the word of its register, and each word is its fields put together. -/
theorem registerWordsCarryTheirFields : Obligations.RegisterWordsCarryTheirFields := by
  intro s hr
  simp only [memRead_of_noReset hr]
  exact ⟨ctrlWord_fields s, rowLenWord_fields s, syncOffWord_fields s.res, crcWord_fields s.res, csumWord_fields s.res,
    variantWord_fields s.res, reading0Word_fields s.res, reading1Word_fields s.res, rfl, rfl⟩

/-- R8 bounds the three numbers that INFO carries. -/
theorem layoutWf_bounds {lay : Layout} (hl : layoutWf lay = true) :
    lay.frameLen ≤ 64 ∧ lay.preLen ≤ 32 ∧ lay.capBits ≤ 8192 := by
  simp only [layoutWf, List.all_cons, id, Bool.and_eq_true, decide_eq_true_eq] at hl
  omega

theorem infoWord_fields {lay : Layout} (hl : layoutWf lay = true) :
    ((infoWord lay).extractLsb' 0 8).toNat = lay.frameLen ∧ ((infoWord lay).extractLsb' 8 8).toNat = lay.preLen ∧
    ((infoWord lay).extractLsb' 16 16).toNat = lay.capBits := by
  obtain ⟨hlen, hpre, hcap⟩ := layoutWf_bounds hl
  simp (disch := decide) only [infoWord, BitVec.extractLsb'_append_eq_of_le, BitVec.extractLsb'_append_eq_of_add_le]
  simp
  omega

theorem preambleWord_getLsbD (lay : Layout) (i : Nat) :
    (preambleWord lay).getLsbD i = (decide (i < lay.preLen) && lay.prePat.getLsbD i) := by
  rw [preambleWord, BitVec.getLsbD_ofNat, Nat.testBit_mod_two_pow, BitVec.testBit_toNat]
  rcases Nat.lt_or_ge i 32 with hi | hi
  · simp [hi]
  · simp [BitVec.getLsbD_of_ge _ _ hi]

end Sys2Proof.Machine
end

section
/-! PROOFS. What a CTRL write may change (spec/20_memory.md R81), what it reads of the written word (spec/30_encoding.md R100), and what the completion of the running command comes to (spec/44_control.md R241). -/

namespace Sys2Proof.Machine

/-! CTRL writes. -/

/-- A CTRL write changes at most CTRL, BUSY, DONE, OVR and CUR. -/
theorem exec_frame {i : Instr} {s t : State} (h : exec i s = .next t) :
    t = { s with ctrl := t.ctrl, busy := t.busy, done := t.done, ovr := t.ovr, cur := t.cur } := by
  rcases exec_cases i s with ⟨c, ie, vb, -, -, he⟩ | ⟨-, -, he⟩ | ⟨c, ie, vb, -, -, -, he⟩ | ⟨c, ie, vb, -, -, he⟩ <;>
    rw [he] at h <;> cases h <;> rfl

theorem exec_keeps_ovr {i : Instr} {s t : State} (h : exec i s = .next t) (ho : s.ovr = true) : t.ovr = true := by
  rcases exec_cases i s with ⟨c, ie, vb, -, -, he⟩ | ⟨-, -, he⟩ | ⟨c, ie, vb, -, -, -, he⟩ | ⟨c, ie, vb, -, -, he⟩ <;>
    rw [he] at h <;> cases h
  · exact ho
  · rfl
  · exact ho
  · exact ho

/-- Settles O12: BUF and the power-up draw are in the frame, so every byte of the buffer is. -/
theorem ctrlWriteFrame : Obligations.CtrlWriteFrame := by
  intro i s t h
  have e := exec_frame h
  exact ⟨e, exec_keeps_ovr h, congrFun (bufByte_congr (by rw [e]) (by rw [e]))⟩

/-- Every command code starts a GO row (R104). -/
theorem encode_decodeGo_go (c : Nibble) (ie vb : Bool) : (encode (decodeGo c ie vb)).getLsbD 4 = true := by
  unfold decodeGo
  split <;> exact ctrlFields_go ..

/-- The decoder keeps the GO bit, and the ACK bit of a word without GO (R100, R101). -/
theorem encode_decode_go (v : Word) : (encode (decode v)).getLsbD 4 = v.getLsbD 4 := by
  cases hgo : v.getLsbD 4 with
  | true => simp [decode, hgo, encode_decodeGo_go]
  | false =>
    cases hack : v.getLsbD 5 <;> simp only [decode, hgo, hack] <;> exact ctrlFields_go ..

theorem encode_decode_ack {v : Word} (hgo : v.getLsbD 4 = false) : (encode (decode v)).getLsbD 5 = v.getLsbD 5 := by
  cases hack : v.getLsbD 5 <;> simp only [decode, hgo, hack] <;> exact ctrlFields_ack ..

/-! Completions. -/

/-- What the pseudocode of the running command comes to (R241). -/
def commandFlow (s : State) : Flow :=
  match s.cur.toNat with
  | 0 => .ended .ok s.res
  | 1 => pipeline s
  | 2 => bodySync s
  | 3 => interlock .synced (bodyExtract s) s.res
  | 4 => interlock .extracted (bodyVerify s) s.res
  | 5 => interlock .verified (bodyDispatch s) s.res
  | 6 => interlock .dispatched (bodyFields s) s.res
  | 7 => .ended .ok (clearFrameState s)
  | _ => .ended .illegalCommand s.res

/-- The completion commits it, CLEAR with OVR cleared as well (R241, R244). -/
theorem completeCommand_eq_finish (s : State) :
    completeCommand s = finish (if s.cur = 0x7#4 then s.clearOvr else s) (commandFlow s) := by
  have hcur : s.cur = 0x7#4 ↔ s.cur.toNat = 7 := BitVec.toNat_inj.symm
  unfold completeCommand commandFlow
  simp only [hcur]
  generalize s.cur.toNat = k
  match k with
  | 0 | 1 | 2 | 3 | 4 | 5 | 6 | 7 => rfl
  | k + 8 => rw [if_neg (by omega)]; rfl

/-- A body that leaves registers ends in their commit, on whatever state it is committed. -/
theorem Flow.Leaves.finish_commits {P : Results → Prop} {f : Flow} (h : f.Leaves P) :
    ∃ c r, P r ∧ ∀ s, finish s f = .next (s.commit c r) := by
  cases f with
  | goOn r => exact ⟨.ok, r, h, fun _ => rfl⟩
  | ended c r => exact ⟨c, r, h, fun _ => rfl⟩
  | noVariant => exact h.elim

/-- A completion commits registers with every property that its flow leaves. -/
theorem finish_leaves {P : Results → Prop} {s t : State} {f : Flow} (h : finish s f = .next t)
    (hf : f ≠ .noVariant → f.Leaves P) : ∃ c r, P r ∧ t = s.commit c r := by
  obtain ⟨c, r, hr, hc⟩ := (hf (by rintro rfl; cases h)).finish_commits
  exact ⟨c, r, hr, Host.Outcome.next.inj (h.symm.trans (hc s))⟩

/-- A step command leaves the registers as they were, when the interlock refuses it, or what its body leaves (R246). -/
theorem interlock_leaves {P : Results → Prop} {need : Stage} {body : Results → Flow} {r : Results} (hr : P r)
    (hb : r.stage = need → (body r).Leaves P) : (interlock need body r).Leaves P := by
  by_cases h : r.stage = need
  · rw [interlock_pass h]; exact hb h
  · rw [interlock_fail h]; exact hr

/-- All the completion of the running command can be, given what its pseudocode leaves. -/
theorem completeCommand_leaves {P : Results → Prop} {s t : State} (h : completeCommand s = .next t)
    (hf : commandFlow s ≠ .noVariant → (commandFlow s).Leaves P) :
    ∃ c r, P r ∧ (t = s.commit c r ∨ (s.cur = 0x7#4 ∧ t = s.clearOvr.commit c r)) := by
  rw [completeCommand_eq_finish] at h
  obtain ⟨c, r, hr, ht⟩ := finish_leaves h hf
  split at ht
  · next h7 => exact ⟨c, r, hr, .inr ⟨h7, ht⟩⟩
  · exact ⟨c, r, hr, .inl ht⟩

/-- From sound registers every command leaves sound registers, and FIELDS has a variant (R33, R181, R246). -/
theorem commandFlow_sound {s : State} (h : ResultsSound s s.res) : (commandFlow s).Leaves (ResultsSound s) := by
  unfold commandFlow
  split
  case h_1 => exact h
  case h_2 => exact pipeline_sound s
  case h_3 => exact (bodySync_sound s).1
  case h_4 => exact interlock_sound h fun hr hs => (bodyExtract_sound hr hs).1
  case h_5 => exact interlock_sound h fun hr hs => (bodyVerify_sound hr hs).1
  case h_6 => exact interlock_sound h fun hr hs => (bodyDispatch_sound hr hs).1
  case h_7 => exact interlock_sound h bodyFields_sound
  case h_8 => exact resultsSound_cleared s
  case h_9 => exact h

end Sys2Proof.Machine
end

section
/-! PROOFS. Every step keeps the invariant (spec/10_state.md R33, spec/60_exceptions.md R275), with one lemma for each way a step changes the block. -/

namespace Sys2Proof.Machine

/-! The pieces of the invariant that a move touches. -/

/-- The reset values of a state in reset are its own, whatever the tape, the read data and the EXPECT verdict. -/
theorem toResetValues_quiet {s t : State} (h : s.toResetValues = s) (e : Quiet s t) : t.toResetValues = t := by
  rw [e]
  exact congrArg (fun u : State => { u with tape := t.tape, rdata := t.rdata, hostOk := t.hostOk }) h

theorem State.Inv.resultsSound {s : State} (h : s.Inv) : ResultsSound s s.res := ⟨h.frameLen, h.stage⟩

/-- The invariant does not read CTRL, OVR, CUR, the tape, the read data or the EXPECT verdict; of BUSY and DONE it
says that they are not both set, and of the reset input that it is asserted only beside reset values. -/
theorem State.Inv.frame {s t : State} (h : s.Inv)
    (e : t = { s with ctrl := t.ctrl, busy := t.busy, done := t.done, ovr := t.ovr, cur := t.cur, tape := t.tape,
                      rdata := t.rdata, hostOk := t.hostOk })
    (hbusy : t.busy = true → t.done = false) (hreset : t.inReset = true → t.toResetValues = t) : t.Inv where
  layout := by rw [e]; exact h.layout
  bufWf := by rw [e]; exact h.bufWf
  bufBound := by rw [e]; exact h.bufBound
  frameLen := by rw [e]; exact h.frameLen
  cls := by rw [e]; exact h.cls
  busyDone := hbusy
  reset := hreset
  stage := stageSound_congr h.stage (by rw [e]) (by rw [e]) (by rw [e]) (by rw [e]) (by rw [e])

theorem inv_quiet {s t : State} (h : s.Inv) (e : Quiet s t) : t.Inv :=
  h.frame (e.trans (by rw [e])) (by rw [e]; exact h.busyDone) fun hr =>
    toResetValues_quiet (h.reset (by rw [e] at hr; exact hr)) e

theorem inv_setTape {s : State} (h : s.Inv) (tape : List Move) : (s.setTape tape).Inv := inv_quiet h rfl

/-! One lemma for each way a step changes the block. -/

/-- A completion commits a code with its class and sound registers (R241, R271). -/
theorem inv_commit {s : State} (h : s.Inv) (hr : s.inReset = false) (c : ResultCode) {r : Results}
    (hs : ResultsSound s r) : (s.commit c r).Inv where
  layout := h.layout
  bufWf := h.bufWf
  bufBound := h.bufBound
  frameLen := hs.1
  cls := rfl
  busyDone := by simp
  reset := by simp [hr]
  stage := stageSound_congr hs.2 rfl rfl rfl rfl rfl

theorem inv_clearOvr {s : State} (h : s.Inv) (hr : s.inReset = false) : s.clearOvr.Inv :=
  h.frame rfl h.busyDone (by simp [hr])

theorem inv_completeCommand {s t : State} (h : s.Inv) (hr : s.inReset = false) (hc : completeCommand s = .next t) :
    t.Inv := by
  obtain ⟨c, r, hs, rfl | ⟨-, rfl⟩⟩ := completeCommand_leaves hc fun _ => commandFlow_sound h.resultsSound
  · exact inv_commit h hr c hs
  · exact inv_commit (inv_clearOvr h hr) hr c ⟨hs.1, stageSound_congr hs.2 rfl rfl rfl rfl rfl⟩

/-- A CTRL write that starts a command clears DONE with it, and no other CTRL write touches BUSY or sets DONE (R240). -/
theorem exec_busyDone {i : Instr} {s t : State} (h : exec i s = .next t) (hb : s.busy = true → s.done = false) :
    t.busy = true → t.done = false := by
  rcases exec_cases i s with ⟨c, ie, vb, -, -, he⟩ | ⟨-, -, he⟩ | ⟨c, ie, vb, -, -, -, he⟩ | ⟨c, ie, vb, -, -, he⟩ <;>
    rw [he] at h <;> cases h
  · exact fun _ => rfl
  · exact hb
  · exact fun _ => rfl
  · exact hb

theorem inv_exec {i : Instr} {s t : State} (h : s.Inv) (hr : s.inReset = false) (hx : exec i s = .next t) : t.Inv := by
  have e := exec_frame hx
  exact h.frame (e.trans (by rw [e])) (exec_busyDone hx h.busyDone) fun hc => by rw [e] at hc; simp [hr] at hc

theorem inv_loseWrite {s : State} (h : s.Inv) (hr : s.inReset = false) : s.loseWrite.Inv :=
  h.frame rfl h.busyDone (by simp [hr])

/-- LEN is stored beside STAGE = 0, which claims nothing of the input (R80). -/
theorem inv_storeRowLen {s : State} (h : s.Inv) (hr : s.inReset = false) (n : BitVec 16) : (s.storeRowLen n).Inv where
  layout := h.layout
  bufWf := h.bufWf
  bufBound := h.bufBound
  frameLen := h.frameLen
  cls := h.cls
  busyDone := h.busyDone
  reset := by simp [hr]
  stage := (resultsSound_of_none (s := s.storeRowLen n) (r := (s.storeRowLen n).res) h.frameLen rfl).2

/-- A BUF word is stored beside STAGE = 0 too, and a word of the window lies within the capacity (R76, R80). -/
theorem inv_storeBufWord {s : State} (h : s.Inv) (hr : s.inReset = false) {w : Nat} (hw : w < bufWords s.layout)
    (v : Word) : (s.storeBufWord w v).Inv where
  layout := h.layout
  bufWf := Memory.wf_writeWord h.bufWf w v
  bufBound := fun c hc => by
    rcases Memory.mem_writeWord hc with hc | hc
    · simp only [State.storeBufWord_layout, bufWords] at hw ⊢; omega
    · exact h.bufBound c hc
  frameLen := h.frameLen
  cls := h.cls
  busyDone := h.busyDone
  reset := by simp [hr]
  stage := (resultsSound_of_none (s := s.storeBufWord w v) (r := (s.storeBufWord w v).res) h.frameLen rfl).2

theorem inv_inputWrite {s : State} {store : State → State} (h : s.Inv) (hr : s.inReset = false)
    (hstore : (store s).Inv) : (inputWrite store s).Inv := by
  unfold inputWrite
  split
  · exact inv_loseWrite h hr
  · exact hstore

theorem inv_toResetValues {s : State} (h : s.Inv) : s.toResetValues.Inv where
  layout := h.layout
  bufWf := h.bufWf
  bufBound := h.bufBound
  frameLen := (resultsSound_cleared s).1
  cls := rfl
  busyDone := fun _ => rfl
  reset := fun _ => rfl
  stage := (resultsSound_cleared s.toResetValues).2

/-- The reset input changes its level only beside the reset values (R300). -/
theorem inv_resetMove {s : State} (h : s.Inv) (asserted : Bool) : (resetMove asserted s).Inv := by
  have hv := inv_toResetValues h
  unfold resetMove
  split
  · exact { hv with reset := fun _ => rfl, stage := stageSound_congr hv.stage rfl rfl rfl rfl rfl }
  · exact h

/-- Settles O46: each way a step can change the block keeps the invariant. -/
theorem stepKeepsInvariant : Obligations.StepKeepsInvariant := by
  intro s t h hstep
  have htape := inv_setTape h s.tape.tail
  obtain ⟨-, hcomplete | hreset | hctrl | hlen | hbuf | hquiet⟩ := step_cases hstep
  · obtain ⟨⟨-, hr, -⟩, hc⟩ := hcomplete
    exact inv_completeCommand htape hr hc
  · obtain ⟨a, rest, -, rfl⟩ := hreset
    exact inv_resetMove (inv_setTape h rest) a
  · obtain ⟨v, ⟨hr, -⟩, hx⟩ := hctrl
    exact inv_exec htape hr hx
  · obtain ⟨v, ⟨hr, -⟩, rfl⟩ := hlen
    exact inv_inputWrite htape hr (inv_storeRowLen htape hr _)
  · obtain ⟨w, v, ⟨hr, -⟩, hw, rfl⟩ := hbuf
    exact inv_inputWrite htape hr (inv_storeBufWord htape hr hw v)
  · exact inv_quiet h hquiet.1

end Sys2Proof.Machine
end

section
/-! PROOFS. What every step keeps and what every run inherits: LAYOUT and the words read from it (spec/10_state.md R44), the idle block (R30), the values after reset (R49), and a reading that passed every check (R33, spec/41_integrity.md R156). -/

namespace Sys2Proof.Machine

/-! LAYOUT. -/

theorem completeCommand_layout {s t : State} (h : completeCommand s = .next t) : t.layout = s.layout := by
  obtain ⟨c, r, rfl | ⟨-, rfl⟩⟩ := completeCommand_next h <;> rfl

theorem resetMove_layout (asserted : Bool) (s : State) : (resetMove asserted s).layout = s.layout := by
  unfold resetMove
  split <;> rfl

theorem inputWrite_layout {store : State → State} {s : State} (h : (store s).layout = s.layout) :
    (inputWrite store s).layout = s.layout := by
  unfold inputWrite
  split
  · rfl
  · exact h

/-- LAYOUT is fixed when the block is built: no step changes it (R44). -/
theorem step_layout {s t : State} (h : step s = .next t) : t.layout = s.layout := by
  obtain ⟨-, ⟨-, hc⟩ | ⟨a, rest, -, rfl⟩ | ⟨v, -, hx⟩ | ⟨v, -, rfl⟩ | ⟨w, v, -, -, rfl⟩ | ⟨hq, -⟩⟩ := step_cases h
  · have htape := completeCommand_layout hc
    exact htape
  · exact resetMove_layout a _
  · rw [exec_frame hx]; rfl
  · exact inputWrite_layout rfl
  · exact inputWrite_layout rfl
  · rw [hq]

/-- Settles O36: both words are functions of LAYOUT, which no step changes, and R8 bounds the fields of INFO. -/
theorem infoAndPreambleAreConstant : Obligations.InfoAndPreambleAreConstant := by
  refine ⟨fun s hl hr => ?_, fun s t h => ?_⟩
  · simp only [memRead_of_noReset hr]
    exact ⟨infoWord_fields hl, preambleWord_getLsbD s.layout⟩
  · rw [step_layout h]
    exact ⟨rfl, rfl, rfl⟩

/-! The idle block and the block after reset. -/

theorem coreMove_idle {s : State} (h : s.busy = false) : coreMove s = .next s := by
  simp [coreMove, h]

/-- Settles O37: with no move left, and on its own move, the core of an idle block does nothing. -/
theorem idleBlockHoldsItsState : Obligations.IdleBlockHoldsItsState := by
  intro s hl hb
  refine ⟨fun ht => ?_, fun rest ht => ?_⟩
  · simp only [step, hl, nextMove, ht]
    exact coreMove_idle hb
  · simp only [step, hl, nextMove, ht, runMove]
    exact coreMove_idle hb

/-- The words packed from cleared result registers are 0 (R49). -/
theorem cleared_words (n : Nat) :
    syncOffWord (.cleared n) = 0 ∧ crcWord (.cleared n) = 0 ∧ csumWord (.cleared n) = 0 ∧
    variantWord (.cleared n) = 0 ∧ reading0Word (.cleared n) = 0 ∧ reading1Word (.cleared n) = 0 := by
  simp [syncOffWord, crcWord, csumWord, variantWord, reading0Word, reading1Word, variantNum]

/-- Settles O44: every listed value is a field of the block that is built, or a word packed from fields that are 0. -/
theorem resetStateHoldsTheListedValues : Obligations.ResetStateHoldsTheListedValues := by
  refine ⟨rfl, fun lay powerUp => ?_⟩
  obtain ⟨hsync, hcrc, hcsum, hvar, hread0, hread1⟩ := cleared_words lay.frameLen
  refine ⟨rfl, rfl, rfl, rfl, rfl, rfl, rfl, rfl, rfl, rfl, rfl, rfl, rfl, rfl, hsync, hcrc, hcsum, hvar, hread0, hread1,
    rfl, rfl, rfl, rfl, rfl, memRead_of_noReset rfl _, memRead_of_noReset rfl _, fun _ => rfl⟩

/-! Runs. -/

/-- What every step keeps holds after every run. -/
theorem run_keeps {P : State → Prop} (hstep : ∀ s t, P s → step s = .next t → P t) {k : Nat} {s t : State} (hs : P s)
    (h : Host.Core.run Sys2Proof.core k s = .next t) : P t := by
  induction k generalizing s with
  | zero => cases h; exact hs
  | succ k ih =>
    simp only [Host.Core.run] at h
    split at h
    · next u hu => exact ih (hstep s u hs hu) h
    · cases h
    · cases h

/-- A run from the reset block of a well-formed LAYOUT keeps that LAYOUT and the invariant. -/
theorem run_from_reset {lay : Layout} (hl : layoutWf lay = true) {powerUp k : Nat} {tape : List Move} {t : State}
    (h : Host.Core.run Sys2Proof.core k { State.resetWith lay powerUp with tape := tape } = .next t) :
    t.layout = lay ∧ t.Inv :=
  run_keeps (P := fun u => u.layout = lay ∧ u.Inv)
    (fun s u hs hu => ⟨(step_layout hu).trans hs.1, stepKeepsInvariant s u hs.2 hu⟩)
    ⟨rfl, inv_resetWith hl powerUp tape⟩ h

theorem channelValid_iff (ch : Nibble) : channelValid ch = true ↔ 1 ≤ ch.toNat ∧ ch.toNat ≤ 7 := by
  simp [channelValid]

/-- Settles O50: the invariant's clauses on STAGE, all of which hold at STAGE = 5. -/
theorem reachableReadingPassedEveryCheck : Obligations.ReachableReadingPassedEveryCheck := by
  intro lay powerUp k tape t hl hrun hrv
  obtain ⟨rfl, hinv⟩ := run_from_reset hl hrun
  have hstage : stageNum t.res.stage = 5 := by rw [(readingValid_iff t.res).1 hrv]; rfl
  obtain ⟨-, p, hp, hoff⟩ := hinv.stage.synced (by omega)
  obtain ⟨hfit, hframe⟩ := hinv.stage.extracted (by omega)
  obtain ⟨-, -, hpass⟩ := hinv.stage.verified (by omega)
  obtain ⟨hfam, v, hv, htype⟩ := hinv.stage.dispatched (by omega)
  obtain ⟨v', m, hv', hchan, hmoist, hres⟩ := hinv.stage.decoded (by omega)
  obtain rfl : v = v' := Option.some.inj (hv.symm.trans hv')
  rw [hoff] at hfit hframe
  obtain ⟨hlow, hhigh⟩ := (channelValid_iff _).1 hchan
  exact ⟨p, v, m, hp, hfit, hframe, hpass, hfam, htype, hlow, hhigh, hmoist, hres⟩

/-! DECODE on the same input. -/

/-- `RUN` of one command on a block that is ready: the completion of the started command (R110, R240, R241). -/
theorem runOne_of_completeCommand {i : Instr} {code : Nibble} {ie vb : Bool} {s t : State} (h : ReadyForGo s)
    (hi : exec i s = startCommand code ie vb s) (hc : completeCommand (s.start code ie vb) = .next t) :
    runOne i s = some t := by
  have hstep : step (s.start code ie vb).coreNext = .next t :=
    (step_coreNext (s := s.start code ie vb) h.layout h.noReset rfl).trans hc
  simp only [runOne, hi, startCommand_idle h.idle, hstep]

/-- Starting a command touches nothing that the pipeline reads (R240, R243). -/
theorem pipeline_start (s : State) (code : Nibble) (ie vb : Bool) : pipeline (s.start code ie vb) = pipeline s :=
  pipeline_congr rfl rfl fun _ _ => rfl

theorem completeCommand_start_decode (s : State) (ie vb : Bool) :
    completeCommand (s.start 0x1#4 ie vb) = finish (s.start 0x1#4 ie vb) (pipeline s) := by
  rw [← pipeline_start s 0x1#4 ie vb]
  rfl

/-- DECODE ends with what the pipeline comes to, committed (R243). -/
theorem runOne_decode {s t : State} (h : ReadyForGo s) {ie vb : Bool}
    (hf : finish (s.start 0x1#4 ie vb) (pipeline s) = .next t) : runOne (.decode ie vb) s = some t :=
  runOne_of_completeCommand h rfl ((completeCommand_start_decode s ie vb).trans hf)

/-- Settles O24: the pipeline reads only LAYOUT, LEN and the bits below LEN, and DECODE commits what it comes to. -/
theorem decodeDependsOnlyOnItsInput : Obligations.DecodeDependsOnlyOnItsInput := by
  intro s s' ie vb hs hs' hlay hlen hbits
  have hsame : pipeline s = pipeline s' := pipeline_congr hlay hlen hbits
  obtain ⟨c, r, -, hf⟩ := (pipeline_sound s').finish_commits
  exact ⟨(s.start 0x1#4 ie vb).commit c r, (s'.start 0x1#4 ie vb).commit c r,
    runOne_decode hs (hsame ▸ hf _), runOne_decode hs' (hf _), rfl, rfl, rfl, rfl⟩

end Sys2Proof.Machine
end

section
/-! PROOFS. What sets and clears each flag (spec/10_state.md R47): the events of a step that touch a flag, said once, and each flag's causes read off them. -/

namespace Sys2Proof.Machine

/-! Which commands write CRC_OK and CSUM_OK: those that verify, and those that run the per-frame clear (R47). -/

/-- `r'` has CRC_OK and CSUM_OK of `r`. -/
def Results.SameChecks (r r' : Results) : Prop :=
  r'.crcOk = r.crcOk ∧ r'.csumOk = r.csumOk

theorem Results.SameChecks.refl (r : Results) : r.SameChecks r := ⟨rfl, rfl⟩

theorem bodyExtract_keepsChecks (s : State) (r : Results) : (bodyExtract s r).Leaves r.SameChecks := by
  rcases bodyExtract_cases s r with ⟨-, h⟩ | ⟨-, h⟩ <;> rw [h] <;> exact .refl r

theorem bodyDispatch_keepsChecks (s : State) (r : Results) : (bodyDispatch s r).Leaves r.SameChecks := by
  rcases bodyDispatch_cases s r with ⟨-, h⟩ | ⟨-, -, h⟩ | ⟨-, v, -, h⟩ <;> rw [h] <;> exact .refl r

theorem bodyFields_keepsChecks {s : State} {r : Results} (hn : bodyFields s r ≠ .noVariant) :
    (bodyFields s r).Leaves r.SameChecks := by
  cases hv : r.var with
  | none => exact absurd (bodyFields_noVariant s hv) hn
  | some v =>
    rcases bodyFields_cases s hv with ⟨-, h⟩ | ⟨-, -, h⟩ | ⟨-, m, -, h⟩ <;> rw [h] <;> exact .refl r

/-- Only DECODE, SYNC, VERIFY and CLEAR write CRC_OK and CSUM_OK. -/
theorem commandFlow_keepsChecks {s : State} (hc : s.cur ∉ [0x1, 0x2, 0x4, 0x7]) (hn : commandFlow s ≠ .noVariant) :
    (commandFlow s).Leaves s.res.SameChecks := by
  have code {k : Nat} (h : s.cur.toNat = k) (hk : k < 16) : s.cur = BitVec.ofNat 4 k :=
    BitVec.eq_of_toNat_eq (by rw [h, BitVec.toNat_ofNat, Nat.mod_eq_of_lt hk])
  revert hn
  unfold commandFlow
  split
  case h_1 => exact fun _ => .refl _
  case h_2 h | h_3 h | h_5 h | h_8 h => exact absurd (by rw [code h (by decide)]; decide) hc
  case h_4 => exact fun _ => interlock_leaves (.refl _) fun _ => bodyExtract_keepsChecks s s.res
  case h_6 => exact fun _ => interlock_leaves (.refl _) fun _ => bodyDispatch_keepsChecks s s.res
  case h_7 =>
    exact fun hn => interlock_leaves (.refl _) fun hs => bodyFields_keepsChecks (by rwa [interlock_pass hs] at hn)
  case h_9 => exact fun _ => .refl _

/-! The events. -/

/-- What one step does to BUSY, DONE, OVR, CRC_OK and CSUM_OK, by the event that does it. -/
inductive FlagEvent (s t : State) : Prop
  /-- A completion (R241). -/
  | completed (now : s.completesNow) (busy : t.busy = false) (done : t.done = true)
      (ovr : t.ovr = s.ovr ∨ (s.cur = 0x7 ∧ t.ovr = false))
      (checks : s.cur ∉ [0x1, 0x2, 0x4, 0x7] → s.res.SameChecks t.res)
  /-- A change of the reset input, which sets no flag (R300). -/
  | reset (now : s.resetsNow) (busy : t.busy = true → s.busy = true) (done : t.done = true → s.done = true)
      (ovr : t.ovr = true → s.ovr = true)
  /-- A GO write while idle (R240). -/
  | started (v : Word) (now : s.writesNow 0 v) (go : v.getLsbD 4 = true) (idle : s.busy = false) (done : t.done = false)
      (ovr : t.ovr = s.ovr) (checks : s.res.SameChecks t.res)
  /-- An ACK while idle (R102). -/
  | acked (v : Word) (now : s.writesNow 0 v) (ack : v.getLsbD 5 = true) (idle : s.busy = false) (busy : t.busy = s.busy)
      (done : t.done = false) (ovr : t.ovr = s.ovr) (checks : s.res.SameChecks t.res)
  /-- A write lost while a command runs (R81). -/
  | lost (v : Word) (k : Nat) (now : s.writesNow k v)
      (reach : (k = 0 ∧ v.getLsbD 4 = true) ∨ k = 2 ∨ (256 ≤ k ∧ k - 256 < s.layout.capBits / 32))
      (running : s.busy = true) (busy : t.busy = s.busy) (done : t.done = s.done) (ovr : t.ovr = true)
      (checks : s.res.SameChecks t.res)
  /-- Anything else. -/
  | quiet (busy : t.busy = s.busy) (done : t.done = s.done) (ovr : t.ovr = s.ovr) (checks : s.res.SameChecks t.res)

/-- A completion's commit, with CRC_OK and CSUM_OK as they were unless the command writes them. -/
theorem completeCommand_checks {s t : State} (h : completeCommand s = .next t) :
    ∃ c r, (s.cur ∉ [0x1, 0x2, 0x4, 0x7] → s.res.SameChecks r) ∧
      (t = s.commit c r ∨ (s.cur = 0x7 ∧ t = s.clearOvr.commit c r)) := by
  by_cases hc : s.cur ∈ [0x1, 0x2, 0x4, 0x7]
  · obtain ⟨c, r, ht⟩ := completeCommand_next h
    exact ⟨c, r, fun hn => absurd hc hn, ht⟩
  · obtain ⟨c, r, hr, ht⟩ := completeCommand_leaves h (commandFlow_keepsChecks hc)
    exact ⟨c, r, fun _ => hr, ht⟩

theorem flagEvent_of_completeCommand {s t : State} (now : s.completesNow)
    (h : completeCommand (s.setTape s.tape.tail) = .next t) : FlagEvent s t := by
  obtain ⟨c, r, hr, rfl | ⟨h7, rfl⟩⟩ := completeCommand_checks h
  · exact .completed now rfl rfl (.inl rfl) hr
  · exact .completed now rfl rfl (.inr ⟨h7, rfl⟩) hr

theorem flagEvent_of_resetMove {s : State} {asserted : Bool} {rest : List Move}
    (ht : s.tape = .resetInput asserted :: rest) : FlagEvent s (resetMove asserted (s.setTape rest)) := by
  unfold resetMove
  split
  · exact .reset ⟨_, _, ht⟩ (by simp) (by simp) (by simp)
  · exact .reset ⟨_, _, ht⟩ id id id

theorem flagEvent_of_exec {s t : State} {v : Word} (now : s.writesNow 0 v)
    (h : exec (decode v) (s.setTape s.tape.tail) = .next t) : FlagEvent s t := by
  rcases exec_cases (decode v) (s.setTape s.tape.tail) with ⟨c, ie, vb, hidle, hgo, he⟩ | ⟨hbusy, hgo, he⟩ |
    ⟨c, ie, vb, hidle, hgo, hack, he⟩ | ⟨c, ie, vb, -, -, he⟩ <;> rw [he] at h <;> cases h
  · rw [encode_decode_go] at hgo
    exact .started v now hgo hidle rfl rfl (.refl _)
  · rw [encode_decode_go] at hgo
    exact .lost v 0 now (.inl ⟨rfl, hgo⟩) hbusy rfl rfl rfl (.refl _)
  · rw [encode_decode_go] at hgo
    rw [encode_decode_ack hgo] at hack
    exact .acked v now hack hidle rfl rfl rfl (.refl _)
  · exact .quiet rfl rfl rfl (.refl _)

/-- An input write, given that the store touches no flag. -/
theorem flagEvent_of_inputWrite {s : State} {store : State → State} {v : Word} {k : Nat} (now : s.writesNow k v)
    (reach : k = 2 ∨ (256 ≤ k ∧ k - 256 < s.layout.capBits / 32))
    (hstore : FlagEvent s (store (s.setTape s.tape.tail))) :
    FlagEvent s (inputWrite store (s.setTape s.tape.tail)) := by
  unfold inputWrite
  split
  · next hbusy => exact .lost v k now (.inr reach) hbusy rfl rfl rfl (.refl _)
  · exact hstore

theorem step_flagEvent {s t : State} (h : step s = .next t) : FlagEvent s t := by
  obtain ⟨-, ⟨now, hc⟩ | ⟨a, rest, ht, rfl⟩ | ⟨v, now, hx⟩ | ⟨v, now, rfl⟩ | ⟨w, v, now, hw, rfl⟩ | ⟨hq, -⟩⟩ :=
    step_cases h
  · exact flagEvent_of_completeCommand now hc
  · exact flagEvent_of_resetMove ht
  · exact flagEvent_of_exec now hx
  · exact flagEvent_of_inputWrite now (.inl rfl) (.quiet rfl rfl rfl (.refl _))
  · have hreach : 256 + w - 256 < s.layout.capBits / 32 := by rw [Nat.add_sub_cancel_left]; exact hw
    exact flagEvent_of_inputWrite now (.inr ⟨by omega, hreach⟩) (.quiet rfl rfl rfl (.refl _))
  · rw [hq]
    exact .quiet rfl rfl rfl (.refl _)

/-! The causes of each change. -/

theorem busy_set_cause {s t : State} (e : FlagEvent s t) (h : s.busy = false) (h' : t.busy = true) :
    ∃ v, s.writesNow 0 v ∧ v.getLsbD 4 = true := by
  cases e with
  | started v now go => exact ⟨v, now, go⟩
  | _ => simp_all

theorem busy_clear_cause {s t : State} (e : FlagEvent s t) (h : s.busy = true) (h' : t.busy = false) :
    s.completesNow ∨ s.resetsNow := by
  cases e with
  | completed now => exact .inl now
  | reset now => exact .inr now
  | _ => simp_all

theorem done_set_cause {s t : State} (e : FlagEvent s t) (h : s.done = false) (h' : t.done = true) :
    s.completesNow := by
  cases e with
  | completed now => exact now
  | _ => simp_all

theorem done_clear_cause {s t : State} (e : FlagEvent s t) (h : s.done = true) (h' : t.done = false) :
    (s.busy = false ∧ ∃ v, s.writesNow 0 v ∧ (v.getLsbD 4 = true ∨ v.getLsbD 5 = true)) ∨ s.resetsNow := by
  cases e with
  | reset now => exact .inr now
  | started v now go idle => exact .inl ⟨idle, v, now, .inl go⟩
  | acked v now ack idle => exact .inl ⟨idle, v, now, .inr ack⟩
  | _ => simp_all

theorem ovr_set_cause {s t : State} (e : FlagEvent s t) (h : s.ovr = false) (h' : t.ovr = true) :
    s.busy = true ∧ ∃ v k, s.writesNow k v ∧
      ((k = 0 ∧ v.getLsbD 4 = true) ∨ k = 2 ∨ (256 ≤ k ∧ k - 256 < s.layout.capBits / 32)) := by
  cases e with
  | lost v k now reach running => exact ⟨running, v, k, now, reach⟩
  | _ => simp_all

theorem ovr_clear_cause {s t : State} (e : FlagEvent s t) (h : s.ovr = true) (h' : t.ovr = false) :
    (s.completesNow ∧ s.cur = 0x7) ∨ s.resetsNow := by
  cases e with
  | completed now busy done ovr => exact .inl ⟨now, (ovr.resolve_left (by simp [h, h'])).1⟩
  | reset now => exact .inr now
  | _ => simp_all

theorem checks_change_cause {s t : State} (e : FlagEvent s t) (h : ¬ s.res.SameChecks t.res) :
    (s.completesNow ∧ s.cur ∈ [0x1, 0x2, 0x4, 0x7]) ∨ s.resetsNow := by
  cases e with
  | completed now busy done ovr checks => exact .inl ⟨now, by_contra fun hc => h (checks hc)⟩
  | reset now => exact .inr now
  | _ => contradiction

/-- Settles O41: every step is one of the flag events, and each flag's causes are those of the events that change it. -/
theorem flagsChangeOnlyByTheirEvents : Obligations.FlagsChangeOnlyByTheirEvents := by
  intro s t h
  have e := step_flagEvent h
  refine ⟨busy_set_cause e, busy_clear_cause e, done_set_cause e, done_clear_cause e, ovr_set_cause e, ovr_clear_cause e,
    fun hc => checks_change_cause e fun same => ?_, readingValid_iff _, rfl⟩
  exact hc.elim (· same.1) (· same.2)

end Sys2Proof.Machine
end

section
/-! PROOFS. Words and their byte lanes, most significant first (spec/20_memory.md R76 to R78): what stands in each lane of a BUF word, of a FRAME word and of the identifier words, and where the bits of the buffer stand. -/

namespace Sys2Proof.Machine

theorem wordLane_getLsbD (v : Word) {j k : Nat} (hk : k < 8) :
    (wordLane v j).getLsbD k = v.getLsbD (24 - 8 * j + k) := by
  simp [wordLane, hk]

/-- The lanes of a word put together from four bytes are these bytes. -/
theorem wordLane_append (g : Nat → Byte) {j : Nat} (hj : j < 4) :
    wordLane (g 0 ++ g 1 ++ g 2 ++ g 3) j = g j := by
  unfold wordLane
  interval_cases j <;>
    simp (disch := decide) only [BitVec.extractLsb'_append_eq_of_le, BitVec.extractLsb'_append_eq_of_add_le] <;> simp

/-- A word is its four lanes: bit `i` is bit `i % 8` of lane `3 - i / 8`. -/
theorem word_eq_of_lanes {u v : Word} (h : ∀ j, j < 4 → wordLane u j = wordLane v j) : u = v := by
  refine BitVec.eq_of_getLsbD_eq fun i hi => ?_
  have hk : i % 8 < 8 := Nat.mod_lt _ (by decide)
  have hbit := congrArg (fun b : Byte => b.getLsbD (i % 8)) (h (3 - i / 8) (by omega))
  simp only [wordLane_getLsbD _ hk] at hbit
  rwa [show 24 - 8 * (3 - i / 8) + i % 8 = i by omega] at hbit

theorem bufWord_lane (s : State) (w : Nat) {j : Nat} (hj : j < 4) : wordLane (bufWord s w) j = bufByte s (4 * w + j) :=
  wordLane_append (fun j => bufByte s (4 * w + j)) hj

theorem bufBit_eq_bufWord_bit (s : State) (i : Nat) : bufBit s i = (bufWord s (i / 32)).getLsbD (31 - i % 32) := by
  have hlane := bufWord_lane s (i / 32) (j := i / 8 % 4) (by omega)
  rw [show 4 * (i / 32) + i / 8 % 4 = i / 8 by omega] at hlane
  rw [bufBit, ← hlane, wordLane_getLsbD _ (by omega)]
  congr 1
  omega

/-- Each lane of an input write of word `w`, and every byte outside the word (R80). -/
theorem bufByte_storeBufWord_lane (s : State) (w : Nat) (v : Word) {j : Nat} (hj : j < 4) :
    bufByte (s.storeBufWord w v) (4 * w + j) = wordLane v j := by
  rw [bufByte_storeBufWord, if_pos (by omega), show (4 * w + j) % 4 = j by omega]

theorem bufByte_storeBufWord_other (s : State) {w b : Nat} (v : Word) (hb : b < 4 * w ∨ 4 * w + 4 ≤ b) :
    bufByte (s.storeBufWord w v) b = bufByte s b := by
  rw [bufByte_storeBufWord, if_neg (by omega)]

/-- The word read after a write of it (R76). -/
theorem bufWord_storeBufWord (s : State) (w : Nat) (v : Word) : bufWord (s.storeBufWord w v) w = v :=
  word_eq_of_lanes fun _ hj => (bufWord_lane _ w hj).trans (bufByte_storeBufWord_lane s w v hj)

theorem frameWord_lane (lay : Layout) (f : List Byte) (w : Nat) {j : Nat} (hj : j < 4) :
    wordLane (frameWord lay f w) j = if 4 * w + j < lay.frameLen then frameByte f (4 * w + j) else 0 :=
  wordLane_append (fun j => if 4 * w + j < lay.frameLen then frameByte f (4 * w + j) else 0) hj

theorem idWord_lane (lay : Layout) (f : List Byte) (base : Nat) {j : Nat} (hj : j < 4) :
    wordLane (idWord lay f base) j = idByte lay f (base + j) :=
  wordLane_append (fun j => idByte lay f (base + j)) hj

end Sys2Proof.Machine
end

section
/-! PROOFS. Bus accesses by the register word they reach (spec/20_memory.md R70 to R80): what a read answers and what a write does, outside reset and during it. -/

namespace Sys2Proof.Machine

/-! The register map (R72). -/

theorem targetOf_frame {w : Nat} (hw : w < 16) : targetOf (16 + w) = .frame w := by
  obtain ⟨n, hn⟩ := Nat.exists_eq_add_of_le' (show 14 ≤ 16 + w by omega)
  rw [hn, targetOf_high, if_pos (by omega), ← hn, Nat.add_sub_cancel_left]

theorem targetOf_reserved {k : Nat} (h : k = 11 ∨ k = 14 ∨ k = 15 ∨ (32 ≤ k ∧ k < 256)) : targetOf k = .reserved := by
  rcases h with rfl | h
  · rfl
  · obtain ⟨n, rfl⟩ := Nat.exists_eq_add_of_le' (show 14 ≤ k by omega)
    rw [targetOf_high, if_neg (by omega), if_neg (by omega)]

/-- Settles O32: an address reaches the block only as its word index. -/
theorem onlyAddressBits10To2Matter : Obligations.OnlyAddressBits10To2Matter := by
  intro s a b v h
  have hindex : wordIndex a = wordIndex b := congrArg BitVec.toNat h
  simp only [memRead, memWrite, hindex, and_self]

/-! Reads. -/

theorem memRead_bufWord {s : State} {addr : Word} {w : Nat} (hr : s.inReset = false) (hw : wordIndex addr = 256 + w)
    (hlt : w < bufWords s.layout) : memRead s addr = bufWord s w := by
  rw [memRead_of_noReset hr, hw, targetOf_buf, readTarget, if_pos hlt]

theorem memRead_pastBuf {s : State} {addr : Word} {w : Nat} (hr : s.inReset = false) (hw : wordIndex addr = 256 + w)
    (hge : bufWords s.layout ≤ w) : memRead s addr = 0 := by
  rw [memRead_of_noReset hr, hw, targetOf_buf, readTarget, if_neg (by omega)]

theorem memRead_frameWord {s : State} {addr : Word} {w : Nat} (hr : s.inReset = false) (hw : wordIndex addr = 16 + w)
    (hlt : w < 16) : memRead s addr = frameWord s.layout s.res.frame w := by
  rw [memRead_of_noReset hr, hw, targetOf_frame hlt, readTarget]

theorem memRead_reserved {addr : Word} (s : State) (h : targetOf (wordIndex addr) = .reserved) : memRead s addr = 0 := by
  rw [memRead, h, readTarget, ite_self]

/-- No register shows the tape, the read data or the EXPECT verdict. -/
theorem memRead_quiet {s t : State} (e : Quiet s t) (addr : Word) : memRead t addr = memRead s addr := by
  rw [e]; rfl

/-- A step whose next move is a read. -/
theorem step_read {s : State} {addr : Word} {rest : List Move} (hl : layoutWf s.layout = true)
    (ht : s.tape = .read addr :: rest) : step s = .next ((s.setTape rest).setRdata (memRead s addr)) := by
  simp [step, hl, nextMove, ht, runMove]

/-- Settles O30: a read leaves a quiet step, after which every address reads as before. -/
theorem readsHaveNoSideEffect : Obligations.ReadsHaveNoSideEffect := by
  intro s addr rest hl ht
  have same : ∀ addr', memRead ((s.setTape rest).setRdata (memRead s addr)) addr' = memRead s addr' :=
    memRead_quiet rfl
  exact ⟨_, step_read hl ht, rfl, same addr, same⟩

/-- Settles O35: both windows are words put together from bytes, and an address of the FRAME window reads its word. -/
theorem frameAndIdentifierWindows : Obligations.FrameAndIdentifierWindows := by
  refine ⟨fun s addr w j hr hw hj haddr => ?_, fun lay f j hj => ⟨?_, ?_⟩⟩
  · rw [memRead_frameWord hr haddr hw]
    exact frameWord_lane s.layout s.res.frame w hj
  · have hlane := idWord_lane lay f 0 hj
    rwa [Nat.zero_add] at hlane
  · have hlane := idWord_lane lay f 4 hj
    rwa [Nat.add_comm] at hlane

/-! Writes. -/

section
variable {s : State} {addr v : Word} {rest : List Move} (hl : layoutWf s.layout = true) (hr : s.inReset = false)
  (ht : s.tape = .write addr v :: rest)
include hl hr ht

/-- Outside reset a write does what its target does with it (R71). -/
theorem step_write_of_noReset : step s = writeTarget v (s.setTape rest) (targetOf (wordIndex addr)) := by
  rw [step_write hl ht, memWrite, State.setTape_inReset, hr]; rfl

theorem step_ctrlWrite (hk : wordIndex addr = 0) : step s = exec (decode v) (s.setTape rest) := by
  rw [step_write_of_noReset hl hr ht, hk]; rfl

theorem step_rowLenWrite (hk : wordIndex addr = 2) :
    step s = .next (inputWrite (State.storeRowLen (v.extractLsb' 0 16)) (s.setTape rest)) := by
  rw [step_write_of_noReset hl hr ht, hk]; rfl

theorem step_bufWrite {w : Nat} (hk : wordIndex addr = 256 + w) (hlt : w < bufWords s.layout) :
    step s = .next (inputWrite (State.storeBufWord w v) (s.setTape rest)) := by
  rw [step_write_of_noReset hl hr ht, hk, targetOf_buf, writeTarget, State.setTape_layout, if_pos hlt]

theorem step_pastBufWrite {w : Nat} (hk : wordIndex addr = 256 + w) (hge : bufWords s.layout ≤ w) :
    step s = .next (s.setTape rest) := by
  rw [step_write_of_noReset hl hr ht, hk, targetOf_buf, writeTarget, State.setTape_layout, if_neg (by omega)]

end

theorem inputWrite_idle {s : State} (h : s.busy = false) (store : State → State) : inputWrite store s = store s := by
  simp [inputWrite, h]

theorem inputWrite_busy {s : State} (h : s.busy = true) (store : State → State) : inputWrite store s = s.loseWrite := by
  simp [inputWrite, h]

/-- A write below the BUF window changes nothing, unless it reaches CTRL or ROW_LEN (R73). -/
theorem memWrite_readOnly {addr : Word} (v : Word) (s : State) (h0 : wordIndex addr ≠ 0) (h2 : wordIndex addr ≠ 2)
    (hlt : wordIndex addr < 256) : memWrite addr v s = .next s := by
  unfold memWrite
  split
  · rfl
  · rcases writeTarget_cases (wordIndex addr) v s with ⟨hk, -⟩ | ⟨hk, -⟩ | ⟨w, hk, -, -⟩ | ⟨-, -, -, h⟩
    · exact absurd hk h0
    · exact absurd hk h2
    · omega
    · exact h

/-- Settles O29: below the BUF window only CTRL and ROW_LEN take a write, and no target of a write stops the machine. -/
theorem reservedAndReadOnlyOffsets : Obligations.ReservedAndReadOnlyOffsets := by
  refine ⟨fun s addr v rest hl ht h0 h2 hlt => ?_, fun s addr h => ?_, fun s addr v => memWrite_next addr v s⟩
  · rw [step_write hl ht]
    exact memWrite_readOnly v (s.setTape rest) h0 h2 hlt
  · exact memRead_reserved s (targetOf_reserved h)

/-- Settles O27: while idle an input write is its store, and a stored BUF word changes its own four bytes. -/
theorem inputWriteStoresAndResetsStage : Obligations.InputWriteStoresAndResetsStage := by
  intro s addr v rest hl hr hb ht
  refine ⟨fun hk => ?_, fun w hw hk => ?_⟩
  · rw [step_rowLenWrite hl hr ht hk, inputWrite_idle (s := s.setTape rest) hb]; rfl
  · rw [step_bufWrite hl hr ht hk hw, inputWrite_idle (s := s.setTape rest) hb]
    exact ⟨_, rfl, rfl, fun j hj => bufByte_storeBufWord_lane _ w v hj, fun b => bufByte_storeBufWord_other _ v, rfl⟩

/-- Settles O28: a window word is its four bytes, so the stream's bits are the words' bits, and a stored word is read
back. -/
theorem bufWindowIsOneBitStream : Obligations.BufWindowIsOneBitStream := by
  refine ⟨bufBit_eq_bufWord_bit, fun s w j hj => (bufWord_lane s w hj).symm, fun s addr w hl hr hk => ⟨?_, ?_⟩⟩
  · refine fun hlt => ⟨memRead_bufWord hr hk hlt, fun hb v rest ht => ?_⟩
    rw [step_bufWrite hl hr ht hk hlt, inputWrite_idle (s := s.setTape rest) hb]
    have hread := memRead_bufWord (s := (s.setTape rest).storeBufWord w v) hr hk hlt
    exact ⟨_, rfl, hread.trans (bufWord_storeBufWord (s.setTape rest) w v)⟩
  · exact fun hge => ⟨memRead_pastBuf hr hk hge, fun v rest ht => step_pastBufWrite hl hr ht hk hge⟩

/-! The write that runs an instruction. -/

theorem decodeGo_of_reserved {code : Nibble} (h : code.getLsbD 3 = true) (ie vb : Bool) :
    decodeGo code ie vb = .reserved code ie vb := by
  revert code ie vb
  decide

/-- The decoder gives back every well-formed instruction (R100, R104). -/
theorem decode_encode {i : Instr} (h : i.wf = true) : decode (encode i) = i := by
  cases i with
  | reserved code ie vb => exact (decode_ctrlFields ..).trans (decodeGo_of_reserved h ie vb)
  | _ => exact decode_ctrlFields ..

/-- Settles O6: the write reaches CTRL, and the decoder gives back the encoded instruction. -/
theorem stepRunsTheDecodedCtrlWrite : Obligations.StepRunsTheDecodedCtrlWrite := by
  intro s addr w rest hl hr ht haddr
  have hstep := step_ctrlWrite hl hr ht (congrArg BitVec.toNat haddr)
  refine ⟨hstep, fun i hi hw => ?_⟩
  rw [hw, decode_encode hi] at hstep
  exact hstep

end Sys2Proof.Machine
end

section
/-! PROOFS. While a command runs (spec/20_memory.md R81, R82): which writes are lost, and that no host move touches the results, the input or the command. -/

namespace Sys2Proof.Machine

/-- A CTRL write with GO while BUSY = 1 is lost, whatever its code (R81, R101). -/
theorem exec_go_busy {i : Instr} {s : State} (hgo : (encode i).getLsbD 4 = true) (hb : s.busy = true) :
    exec i s = .next s.loseWrite := by
  rcases exec_cases i s with ⟨c, ie, vb, hidle, -, -⟩ | ⟨-, -, h⟩ | ⟨c, ie, vb, -, hngo, -⟩ | ⟨c, ie, vb, hngo, -⟩
  · simp [hb] at hidle
  · exact h
  · cases hgo.symm.trans hngo
  · cases hgo.symm.trans hngo

/-- Settles O8: each of the nine rows encodes GO = 1. -/
theorem goWriteWhileBusyIsLost : Obligations.GoWriteWhileBusyIsLost := by
  intro s ie vb hb
  have lost (i : Instr) (hgo : (encode i).getLsbD 4 = true) : exec i s = .next { s with ovr := true } :=
    exec_go_busy hgo hb
  exact ⟨lost _ (ctrlFields_go ..), lost _ (ctrlFields_go ..), lost _ (ctrlFields_go ..), lost _ (ctrlFields_go ..),
    lost _ (ctrlFields_go ..), lost _ (ctrlFields_go ..), lost _ (ctrlFields_go ..), lost _ (ctrlFields_go ..),
    fun _ => lost _ (ctrlFields_go ..)⟩

/-- A CTRL write without GO while BUSY = 1 stores its fields, and its ACK bit does nothing (R81, R102). -/
theorem exec_decode_noGo_busy {v : Word} {s : State} (hgo : v.getLsbD 4 = false) (hb : s.busy = true) :
    exec (decode v) s = .next (s.setCtrl (v.extractLsb' 0 4) (v.getLsbD 8) (v.getLsbD 9)) := by
  cases hack : v.getLsbD 5 with
  | true => simp only [decode, hgo, hack, exec, execAck, hb, Bool.false_eq_true, if_false, if_true]
  | false => simp only [decode, hgo, hack, exec, execSetctrl, Bool.false_eq_true, if_false]

/-- Settles O9: the two kinds of input write and the CTRL write with GO are lost; the CTRL write without GO is stored. -/
theorem writesWhileBusyAreLost : Obligations.WritesWhileBusyAreLost := by
  intro s addr v rest hl hr hb ht
  refine ⟨fun hk => ?_, fun w hw hk => ?_, fun hk hgo => ?_, fun hk hgo => ?_⟩
  · rw [step_rowLenWrite hl hr ht hk, inputWrite_busy (s := s.setTape rest) hb]; rfl
  · rw [step_bufWrite hl hr ht hk hw, inputWrite_busy (s := s.setTape rest) hb]; rfl
  · rw [step_ctrlWrite hl hr ht hk]
    exact exec_go_busy (s := s.setTape rest) ((encode_decode_go v).trans hgo) hb
  · rw [step_ctrlWrite hl hr ht hk]
    exact exec_decode_noGo_busy (s := s.setTape rest) hgo hb

/-- A step that changes at most CTRL, OVR and the model's own fields: all that the host can do while a command runs. -/
def SparesCommand (s t : State) : Prop :=
  t = { s with ctrl := t.ctrl, ovr := t.ovr, tape := t.tape, rdata := t.rdata, hostOk := t.hostOk }

theorem exec_spares_command {i : Instr} {s t : State} (hb : s.busy = true) (h : exec i s = .next t) :
    SparesCommand s t := by
  rcases exec_cases i s with ⟨c, ie, vb, hidle, -, -⟩ | ⟨-, -, he⟩ |
    ⟨c, ie, vb, hidle, -⟩ | ⟨c, ie, vb, -, -, he⟩
  · simp [hb] at hidle
  · rw [he] at h; cases h; rfl
  · simp [hb] at hidle
  · rw [he] at h; cases h; rfl

/-- While BUSY = 1 every host move spares the command (R82). -/
theorem step_host_spares_command {s t : State} {m : Move} {rest : List Move} (hb : s.busy = true)
    (ht : s.tape = m :: rest) (hm : m.isHost = true) (h : step s = .next t) : SparesCommand s t := by
  obtain ⟨-, ⟨⟨-, -, hcore⟩, -⟩ | ⟨a, r, hreset, -⟩ | ⟨v, -, hx⟩ | ⟨v, -, rfl⟩ | ⟨w, v, -, -, rfl⟩ | ⟨hq, -⟩⟩ :=
    step_cases h
  · simp only [ht, List.cons.injEq, reduceCtorEq, false_or] at hcore
    obtain ⟨r, rfl, -⟩ := hcore
    cases hm
  · simp only [ht, List.cons.injEq] at hreset
    obtain ⟨rfl, -⟩ := hreset
    cases hm
  · exact (exec_spares_command (s := s.setTape s.tape.tail) hb hx).trans rfl
  · rw [inputWrite_busy (s := s.setTape s.tape.tail) hb]; rfl
  · rw [inputWrite_busy (s := s.setTape s.tape.tail) hb]; rfl
  · exact hq.trans (by rw [hq])

/-- Settles O38: every host move while BUSY = 1 spares the command. -/
theorem hostMovesLeaveResultsWhileBusy : Obligations.HostMovesLeaveResultsWhileBusy := by
  intro s t m rest hb ht hm h
  have e : SparesCommand s t := step_host_spares_command hb ht hm h
  rw [e]
  exact ⟨rfl, rfl, rfl, rfl, rfl, rfl, rfl, hb, rfl, rfl, rfl, rfl⟩

end Sys2Proof.Machine
end

section
/-! PROOFS. The encoding of CTRL words (spec/30_encoding.md R100 to R106, R111, spec/opcode_table.json): the decoder against the encoder, against the rows of the opcode table, and against the reserved bits. -/

namespace Sys2Proof.Machine

/-- Settles O1: the decoder reads back the fields that the encoder wrote. -/
theorem encodedInstructionDecodesBack : Obligations.EncodedInstructionDecodesBack :=
  fun _ hi => decode_encode hi

/-! The rows of the opcode table. -/

/-- The six bits that the rows test are the fields CMD, GO and ACK. -/
theorem lowBits_eq_ctrlFields (w : Word) :
    w &&& 0x3F#32 = ctrlFields (w.extractLsb' 0 4) (w.getLsbD 4) (w.getLsbD 5) false false := by
  refine BitVec.eq_of_getLsbD_eq fun i hi => ?_
  simp only [ctrlFields, BitVec.getLsbD_append, BitVec.getLsbD_and]
  interval_cases i <;> simp

/-- No row tests a bit above ACK. -/
theorem opcodeRows_mask_low : ∀ row ∈ opcodeRows, 0x3F#32 &&& row.1 = row.1 := by
  simp [opcodeRows]

theorem rowMatches_lowBits (w : Word) {row : Word × Word} (h : row ∈ opcodeRows) :
    rowMatches (w &&& 0x3F#32) row = rowMatches w row := by
  rw [rowMatches, rowMatches, BitVec.and_assoc, opcodeRows_mask_low row h]

theorem row_lt_length (i : Instr) : i.row < opcodeRows.length := by
  cases i <;> simp [Instr.row, opcodeRows]

/-- A word's fields settle its row, by the value of CMD, GO and ACK (R104). -/
theorem rowMatches_decode_ctrlFields : ∀ (c : Nibble) (go ack ie vb : Bool),
    rowMatches (ctrlFields c go ack false false)
      (opcodeRows[(decode (ctrlFields c go ack ie vb)).row]'(row_lt_length _)) = true := by
  decide

theorem decode_eq_decode_ctrlFields (w : Word) :
    decode w = decode (ctrlFields (w.extractLsb' 0 4) (w.getLsbD 4) (w.getLsbD 5) (w.getLsbD 8) (w.getLsbD 9)) :=
  (decode_ctrlFields ..).symm

/-- Every word is a word of the row of the instruction it decodes to. -/
theorem rowMatches_decode (w : Word) : rowMatches w (opcodeRows[(decode w).row]'(row_lt_length _)) = true := by
  rw [← rowMatches_lowBits w (List.getElem_mem _), lowBits_eq_ctrlFields]
  simp only [decode_eq_decode_ctrlFields w]
  exact rowMatches_decode_ctrlFields ..

/-- Any two rows ask for different values of a bit that both test. -/
theorem opcodeRows_disjoint : ∀ j k : Fin opcodeRows.length,
    opcodeRows[j].2 &&& opcodeRows[k].1 = opcodeRows[k].2 &&& opcodeRows[j].1 → j = k := by
  decide

theorem rowMatches_unique {w : Word} {j k : Nat} (hj : j < opcodeRows.length) (hk : k < opcodeRows.length)
    (mj : rowMatches w opcodeRows[j] = true) (mk : rowMatches w opcodeRows[k] = true) : j = k := by
  rw [rowMatches, beq_iff_eq] at mj mk
  have agree : opcodeRows[j].2 &&& opcodeRows[k].1 = opcodeRows[k].2 &&& opcodeRows[j].1 := by
    rw [← mj, ← mk, BitVec.and_assoc, BitVec.and_assoc, BitVec.and_comm opcodeRows[j].1]
  exact congrArg Fin.val (opcodeRows_disjoint ⟨j, hj⟩ ⟨k, hk⟩ agree)

/-- Settles O2: the decoder's row holds the word, and no two rows share a word. -/
theorem everyWordSelectsExactlyOneRow : Obligations.EveryWordSelectsExactlyOneRow := by
  refine ⟨rfl, fun w k hk => ⟨fun hm => rowMatches_unique _ hk (rowMatches_decode w) hm, ?_⟩⟩
  rintro rfl
  exact rowMatches_decode w

/-! The reserved bits. -/

/-- The decoder reads no reserved bit (R106). -/
theorem decode_congr {u v : Word} (h : ∀ i, i < 32 → (0xFFFFFCC0#32).getLsbD i = false → u.getLsbD i = v.getLsbD i) :
    decode u = decode v := by
  have hcmd : u.extractLsb' 0 4 = v.extractLsb' 0 4 := by
    refine BitVec.eq_of_getLsbD_eq fun i hi => ?_
    rw [BitVec.getLsbD_extractLsb', BitVec.getLsbD_extractLsb', h (0 + i) (by omega) (by interval_cases i <;> rfl)]
  simp only [decode, hcmd, h 4 (by decide) rfl, h 5 (by decide) rfl, h 8 (by decide) rfl, h 9 (by decide) rfl]

/-- A read of CTRL returns the word of the SETCTRL that stores its fields. -/
theorem ctrlWord_eq_encode (s : State) : ctrlWord s = encode (.setctrl s.ctrl.cmd s.ctrl.ie s.ctrl.verbose) := by
  unfold ctrlWord
  obtain ⟨cmd, ie, vb⟩ := s.ctrl
  revert cmd ie vb
  decide

/-- Settles O3: the two words agree on every bit the decoder reads, and CTRL reads as an encoded instruction. -/
theorem reservedCtrlBitsAreIgnored : Obligations.ReservedCtrlBitsAreIgnored := by
  refine ⟨fun w m => decode_congr fun i hlt hi => ?_, fun s => ?_⟩
  · rw [BitVec.getLsbD_or, BitVec.getLsbD_and, BitVec.getLsbD_and, BitVec.getLsbD_not, hi]
    simp [hlt]
  · rw [ctrlWord_eq_encode]
    exact (Laws.CanonicalWord.setctrl _ _ _ rfl).1

/-! Command lines. -/

theorem cmdOp_eq_ctrlFields (name : CommandName) (ie : Bool) :
    cmdOp name ie = .wr 0 (ctrlFields ((commandCode name).setWidth 4) true false ie false) := by
  cases name <;> cases ie <;> rfl

/-- Settles O4: a command line writes the fields of its command, and the decoder gives back the encoded examples. -/
theorem commandLinesEncodeAsTheirCtrlWord : Obligations.CommandLinesEncodeAsTheirCtrlWord :=
  have line := cmdOp_eq_ctrlFields
  ⟨fun ie => ⟨line .nop ie, line .decode ie, line .sync ie, line .extract ie, line .verify ie, line .dispatch ie,
      line .fields ie, line .clear ie⟩,
    rfl, rfl, rfl, decode_encode (i := .decode false false) rfl, decode_encode (i := .verify false false) rfl,
    decode_encode (i := .fields true false) rfl⟩

end Sys2Proof.Machine
end

section
/-! PROOFS. What a host program's lines do (spec/30_encoding.md R102, R103, R109, R110): the CTRL writes that start nothing, the lines that read, and the expansion of the pseudo-instructions. -/

namespace Sys2Proof.Machine

/-! ACK and SETCTRL. -/

theorem exec_ack_idle {s : State} (h : s.busy = false) (cmd : Nibble) (ie vb : Bool) :
    exec (.ack cmd ie vb) s = .next (s.setCtrl cmd ie vb).clearDone := by
  simp [exec, execAck, h]

theorem exec_ack_busy {s : State} (h : s.busy = true) (cmd : Nibble) (ie vb : Bool) :
    exec (.ack cmd ie vb) s = .next (s.setCtrl cmd ie vb) := by
  simp [exec, execAck, h]

theorem exec_setctrl (s : State) (cmd : Nibble) (ie vb : Bool) :
    exec (.setctrl cmd ie vb) s = .next (s.setCtrl cmd ie vb) := rfl

/-- Settles O10: BUSY decides whether the stores of R102 include DONE. -/
theorem ackStoresFieldsAndClearsDone : Obligations.AckStoresFieldsAndClearsDone :=
  fun _ cmd ie vb => ⟨fun h => exec_ack_idle h cmd ie vb, fun h => exec_ack_busy h cmd ie vb⟩

/-- Settles O11: irq is DONE and the stored IE. -/
theorem setctrlStoresItsFields : Obligations.SetctrlStoresItsFields := by
  refine fun s cmd ie vb => ⟨exec_setctrl s cmd ie vb, fun hdone hie t h => ?_⟩
  rw [exec_setctrl] at h
  cases h
  simp [irq, hdone, hie]

/-! POLL and EXPECT. -/

section
variable {s : State} {addr mask val : Word} {rest : List Move} (hl : layoutWf s.layout = true)
include hl

theorem step_poll (ht : s.tape = .poll addr mask val :: rest) :
    step s = .next ((s.setTape (if memRead s addr &&& mask = val then rest
      else .core :: .poll addr mask val :: rest)).setRdata (memRead s addr)) := by
  simp [step, hl, nextMove, ht, runMove]

theorem step_expect (ht : s.tape = .expect addr mask val :: rest) :
    step s = .next (((s.setTape rest).setRdata (memRead s addr)).noteExpect (memRead s addr &&& mask == val)) := by
  simp [step, hl, nextMove, ht, runMove]

end

/-- Settles O31: the test of the masked value decides what stays on the tape. -/
theorem pollAndExpectReadAndTest : Obligations.PollAndExpectReadAndTest := by
  refine fun s addr mask val rest hl => ⟨fun ht hv => ?_, fun ht hv => ?_, fun ht => step_expect hl ht⟩
  · rw [step_poll hl ht, if_pos hv]; rfl
  · rw [step_poll hl ht, if_neg hv]; rfl

/-! The pseudo-instructions. -/

/-- `LOAD w` writes to byte offset `0x400 + 4w`. -/
theorem loadOp_eq_wr (w : Nat) (imm : Word) : loadOp w imm = .wr (0x400#32 + 4#32 * BitVec.ofNat 32 w) imm := by
  rw [loadOp, BitVec.ofNat_mul]

/-- A digit shifted into a word takes the low four bits; the others move up by one digit. -/
theorem shiftInDigit_getLsbD (acc : Word) (d : Nibble) {i : Nat} (hi : i < 32) :
    (acc <<< 4 ||| d.setWidth 32).getLsbD i = if i < 4 then d.getLsbD i else acc.getLsbD (i - 4) := by
  rw [BitVec.getLsbD_or, BitVec.getLsbD_shiftLeft, BitVec.getLsbD_setWidth]
  split
  next h => simp [hi, h]
  next h =>
    rw [BitVec.getLsbD_of_ge d i (by omega), decide_eq_true hi, decide_eq_false h]
    simp

/-- Of `n` digits shifted into a word in turn, digit `k` stands `n - 1 - k` digits above the lowest. -/
theorem foldl_shiftInDigit_getLsbD (digit : Nat → Nibble) (n : Nat) {k i : Nat} (hn : n ≤ 8) (hk : k < n) (hi : i < 4) :
    ((List.range n).foldl (fun (acc : Word) j => acc <<< 4 ||| (digit j).setWidth 32) (0 : Word)).getLsbD
      (4 * (n - 1 - k) + i) = (digit k).getLsbD i := by
  induction n with
  | zero => omega
  | succ n ih =>
    rw [List.range_succ, List.foldl_append, List.foldl_cons, List.foldl_nil, shiftInDigit_getLsbD _ _ (by omega)]
    rcases Nat.lt_succ_iff_lt_or_eq.1 hk with hlt | rfl
    · rw [if_neg (by omega), show 4 * (n + 1 - 1 - k) + i - 4 = 4 * (n - 1 - k) + i by omega]
      exact ih (by omega) hlt
    · rw [if_pos (by omega), show 4 * (k + 1 - 1 - k) + i = i by omega]

theorem hexWord_digit (hex : List Nibble) (w : Nat) {k : Nat} (hk : k < 8) :
    (hexWord hex w).extractLsb' (28 - 4 * k) 4 = hex.getD (8 * w + k) 0 := by
  refine BitVec.eq_of_getLsbD_eq fun i hi => ?_
  have hbit := foldl_shiftInDigit_getLsbD (fun j => hex.getD (8 * w + j) 0) 8 le_rfl hk hi
  rw [BitVec.getLsbD_extractLsb', decide_eq_true hi, Bool.true_and, ← hbit, hexWord,
    show 28 - 4 * k + i = 4 * (8 - 1 - k) + i by omega]

/-- Settles O5: the listed lines are the definition's, and the digits of a LOADBITS word stand where they were shifted to. -/
theorem pseudoInstructionsExpandAsListed : Obligations.PseudoInstructionsExpandAsListed := by
  refine ⟨fun _ => rfl, fun _ => rfl, rfl, fun _ => rfl, rfl, fun _ => rfl, fun w imm => ?_, fun hex n => ?_⟩
  · rw [PseudoOp.expand, loadOp_eq_wr]
  · refine ⟨_, rfl, by rw [List.length_map, List.length_range], fun w hw =>
      ⟨hexWord hex w, ?_, fun _ => hexWord_digit hex w⟩⟩
    rw [List.getElem?_map, List.getElem?_range hw, Option.map_some, loadOp_eq_wr]

end Sys2Proof.Machine
end

section
/-! PROOFS. SYNC and EXTRACT from the GO write to the commit (spec/40_sync_extract.md R123, R132), the search on a buffer whose first words are known (R126), and the frame as a function of the bits after the match (R133). -/

namespace Sys2Proof.Machine

/-! From the GO write to the completion. -/

/-- A started command whose completion comes next completes (R240, R241). -/
theorem step_started {s : State} (h : ReadyForGo s) (code : Nibble) (ie vb : Bool) :
    step (s.started code ie vb).coreNext = completeCommand (s.start code ie vb) :=
  step_coreNext (s := s.start code ie vb) h.layout h.noReset rfl

/-- Starting a command touches nothing that the body of SYNC or of EXTRACT reads (R240, R123, R132). -/
theorem bodySync_start (s : State) (code : Nibble) (ie vb : Bool) : bodySync (s.start code ie vb) = bodySync s :=
  bodySync_congr rfl rfl fun _ _ => rfl

theorem bodyExtract_start (s : State) (code : Nibble) (ie vb : Bool) :
    bodyExtract (s.start code ie vb) = bodyExtract s :=
  funext (bodyExtract_congr rfl rfl fun _ _ => rfl)

/-- SYNC's completion commits what its body comes to (R123). -/
theorem completeCommand_start_sync (s : State) (ie vb : Bool) :
    completeCommand (s.start 0x2 ie vb) = finish (s.start 0x2 ie vb) (bodySync s) := by
  rw [← bodySync_start s 0x2 ie vb]
  rfl

/-- EXTRACT's completion commits what its body comes to behind the interlock (R132, R246). -/
theorem completeCommand_start_extract (s : State) (ie vb : Bool) :
    completeCommand (s.start 0x3 ie vb) =
      finish (s.start 0x3 ie vb) (interlock .synced (bodyExtract s) s.res) := by
  rw [← bodyExtract_start s 0x3 ie vb]
  rfl

/-- Settles O16: SYNC commits what its body comes to, and that is decided by the row length and the first match. -/
theorem syncRunsToCompletion : Obligations.SyncRunsToCompletion := by
  refine ⟨decode_encode (i := .sync false false) rfl, fun s ie vb h => ?_⟩
  simp only [step_started h, completeCommand_start_sync]
  refine ⟨startCommand_idle h.idle _ ie vb, fun hlen => ?_, fun hlen hnone => ?_, fun p hlen hp => ?_⟩
  · rw [bodySync_badRowlen hlen]; rfl
  · rw [bodySync_notFound hlen hnone]; rfl
  · rw [bodySync_found hlen hp]; rfl

/-! EXTRACT's body on each side of the length condition (R131). -/

theorem bodyExtract_tooShort {s : State} {r : Results} (h : s.rowLen.toNat < r.syncOff.toNat + 8 * s.layout.frameLen) :
    bodyExtract s r = .ended .insufficientLength r := by
  rcases bodyExtract_cases s r with ⟨-, he⟩ | ⟨hfit, -⟩
  · exact he
  · omega

theorem bodyExtract_fits {s : State} {r : Results} (h : r.syncOff.toNat + 8 * s.layout.frameLen ≤ s.rowLen.toNat) :
    bodyExtract s r = .goOn { r with frame := extractFrame s r.syncOff.toNat, stage := .extracted } := by
  rcases bodyExtract_cases s r with ⟨hshort, -⟩ | ⟨-, he⟩
  · omega
  · exact he

/-- Settles O17: STAGE decides the interlock, LEN the body, and the frame copied is the one that starts at OFF. -/
theorem extractRunsToCompletion : Obligations.ExtractRunsToCompletion := by
  refine ⟨decode_encode (i := .extract false false) rfl, fun s ie vb h => ?_⟩
  simp only [step_started h, completeCommand_start_extract]
  refine ⟨startCommand_idle h.idle _ ie vb, fun hstage => ?_, fun hstage hshort => ?_, fun hstage hfit =>
    ⟨extractFrame s s.res.syncOff.toNat, isFrameAt_extractFrame s _, ?_⟩⟩
  · rw [interlock_fail hstage]; rfl
  · rw [interlock_pass hstage, bodyExtract_tooShort hshort]; rfl
  · rw [interlock_pass hstage, bodyExtract_fits hfit]; rfl

/-! The frame and the bits it is copied from. -/

/-- The copied frames are equal as a whole, not only byte by byte (R133). -/
theorem extractFrame_eq_of_bits {s s' : State} {off off' : Nat} (hl : s.layout = s'.layout)
    (h : ∀ i, i < 8 * s.layout.frameLen → bufBit s (off + i) = bufBit s' (off' + i)) :
    extractFrame s off = extractFrame s' off' := by
  refine frame_ext (by rw [extractFrame_length, extractFrame_length, hl]) fun k hk => ?_
  rw [extractFrame_length] at hk
  exact extractFrame_congr hl h k hk

/-- Settles O58: the CRC and the checksum are functions of LAYOUT and the frame, and the frame is one of the bits. -/
theorem frameIgnoresItsPositionInTheBuffer : Obligations.FrameIgnoresItsPositionInTheBuffer := by
  intro s s' off off' hl h
  rw [extractFrame_eq_of_bits hl h, hl]
  exact ⟨rfl, rfl, rfl⟩

/-! The search. -/

/-- The search reads only bits below `n` (R126). -/
theorem syncSearch_congr {s s' : State} {n : Nat} (hl : s.layout = s'.layout)
    (hb : ∀ i, i < n → bufBit s i = bufBit s' i) : syncSearch s n = syncSearch s' n := by
  ext off
  rw [syncSearch_eq_some, syncSearch_eq_some, hl]
  simp only [firstPreambleAt_congr hl hb]

/-- Bit `i` of a bit stream that stands in the words `ws` (spec/20_memory.md R76). -/
def wordsBit (ws : List Word) (i : Nat) : Bool :=
  (ws.getD (i / 32) 0).getLsbD (31 - i % 32)

theorem bufBit_eq_wordsBit {s : State} {ws : List Word} (hw : ∀ k, k < ws.length → bufWord s k = ws.getD k 0) {i : Nat}
    (hi : i < 32 * ws.length) : bufBit s i = wordsBit ws i := by
  rw [bufBit_eq_bufWord_bit, hw _ (by omega), wordsBit]

/-- The first match in a buffer that begins with the words `ws`, when it ends within them: the pattern stands at `p`, and at
every lower position some bit differs. -/
theorem firstPreambleAt_of_words {s : State} {n p : Nat} {ws : List Word}
    (hw : ∀ k, k < ws.length → bufWord s k = ws.getD k 0) (hfit : p + s.layout.preLen ≤ 32 * ws.length)
    (hn : p + s.layout.preLen ≤ n) (hmatch : ∀ j, j < s.layout.preLen → wordsBit ws (p + j) = patternBit s.layout j)
    (hbefore : ∀ q, q < p → ∃ j, j < s.layout.preLen ∧ wordsBit ws (q + j) ≠ patternBit s.layout j) :
    FirstPreambleAt s n p := by
  refine ⟨⟨hn, fun j hj => ?_⟩, fun q hq hpre => ?_⟩
  · rw [bufBit_eq_wordsBit hw (by omega), hmatch j hj]
  · obtain ⟨j, hj, hne⟩ := hbefore q hq
    exact hne ((bufBit_eq_wordsBit hw (by omega)).symm.trans (hpre.2 j hj))

section
variable {s : State} (hlen : s.layout.preLen = 24) (hpat : s.layout.prePat = 0xAA2DD4#32)
include hlen hpat

/-- The default pattern after one extra preamble byte (R126). -/
theorem firstPreambleAt_extraPreamble (h0 : bufWord s 0 = 0xAAAA2DD4#32) {n : Nat} (hn : 32 ≤ n) :
    FirstPreambleAt s n 8 := by
  apply firstPreambleAt_of_words (ws := [0xAAAA2DD4#32])
  · simpa using h0
  all_goals simp only [patternBit, hlen, hpat]
  · decide
  · exact hn
  · decide
  · decide

/-- The same bytes after three 0 bits, so off the byte boundary (R126). -/
theorem firstPreambleAt_offByteBoundary (h0 : bufWord s 0 = 0x155545BA#32) (h1 : bufWord s 1 = 0x80000000#32) {n : Nat}
    (hn : 35 ≤ n) : FirstPreambleAt s n 11 := by
  apply firstPreambleAt_of_words (ws := [0x155545BA#32, 0x80000000#32])
  · intro k hk
    match k, hk with
    | 0, _ => exact h0
    | 1, _ => exact h1
  all_goals simp only [patternBit, hlen, hpat]
  · decide
  · exact hn
  · decide
  · decide

end

/-- `RUN SYNC` with a match ends with OK and the match's end in SYNC_OFF (R123). -/
theorem runOne_sync_found {s : State} {p : Nat} (h : ReadyForGo s) (hlen : s.rowLen.toNat ≤ s.layout.capBits)
    (hp : FirstPreambleAt s s.rowLen.toNat p) (ie vb : Bool) :
    ∃ t, runOne (.sync ie vb) s = some t ∧ t.result = .ok ∧
      t.res.syncOff = BitVec.ofNat 16 (p + s.layout.preLen) := by
  have hdone := completeCommand_start_sync s ie vb
  rw [bodySync_found hlen hp, finish_goOn] at hdone
  exact ⟨_, runOne_of_completeCommand h rfl hdone, rfl, rfl⟩

/-- Settles O59: the two first matches, the search and SYNC at them, and the search's dependence on the bits below LEN. -/
theorem searchCornerCases : Obligations.SearchCornerCases := by
  refine ⟨fun s n hlen hpat => ⟨fun h0 hn => ?_, fun h0 h1 hn => ?_⟩, fun s ie vb h hlen hpat hcap =>
    ⟨fun h0 hn => ?_, fun h0 h1 hn => ?_⟩, fun s s' n => syncSearch_congr⟩
  · have hp := firstPreambleAt_extraPreamble hlen hpat h0 hn
    exact ⟨hp, syncSearch_eq_some.2 ⟨_, hp, by rw [hlen]⟩⟩
  · have hp := firstPreambleAt_offByteBoundary hlen hpat h0 h1 hn
    exact ⟨hp, syncSearch_eq_some.2 ⟨_, hp, by rw [hlen]⟩⟩
  · have hrun := runOne_sync_found h hcap (firstPreambleAt_extraPreamble hlen hpat h0 hn) ie vb
    rwa [hlen] at hrun
  · have hrun := runOne_sync_found h hcap (firstPreambleAt_offByteBoundary hlen hpat h0 h1 hn) ie vb
    rwa [hlen] at hrun

end Sys2Proof.Machine
end

section
/-! PROOFS. VERIFY from the GO write to the commit (spec/41_integrity.md R154, R155), the checksum as an integer (R152, R153), the CRC's check value (R159), and a single changed payload byte (R158). -/

namespace Sys2Proof.Machine

/-! VERIFY's body on each side of its two tests (R154, R155). -/

theorem bodyVerify_crcMismatch {s : State} {r : Results}
    (hcrc : crc16 (payload s.layout r.frame) ≠ crcReceived s.layout r.frame) :
    bodyVerify s r = .ended .crcMismatch (verifyResults s.layout r) := by
  simpa [hcrc, IntegrityPasses] using bodyVerify_cases s r

theorem bodyVerify_checksumMismatch {s : State} {r : Results}
    (hcrc : crc16 (payload s.layout r.frame) = crcReceived s.layout r.frame)
    (hcsum : checksum (payload s.layout r.frame) ≠ csumReceived s.layout r.frame) :
    bodyVerify s r = .ended .checksumMismatch (verifyResults s.layout r) := by
  simpa [hcrc, hcsum, IntegrityPasses] using bodyVerify_cases s r

theorem bodyVerify_passes {s : State} {r : Results} (h : IntegrityPasses s.layout r.frame) :
    bodyVerify s r = .goOn { verifyResults s.layout r with stage := .verified } := by
  simpa [h.1, h.2, h] using bodyVerify_cases s r

/-- VERIFY's completion commits what its body comes to behind the interlock (R154, R246); the body reads LAYOUT alone of the
block, which the GO write keeps. -/
theorem completeCommand_start_verify (s : State) (ie vb : Bool) :
    completeCommand (s.start 0x4 ie vb) =
      finish (s.start 0x4 ie vb) (interlock .extracted (bodyVerify s) s.res) := rfl

/-- Settles O18: STAGE decides the interlock, the CRC the first test and the checksum the second. -/
theorem verifyRunsToCompletion : Obligations.VerifyRunsToCompletion := by
  refine ⟨decode_encode (i := .verify false false) rfl, fun s ie vb h => ?_⟩
  simp only [step_started h, completeCommand_start_verify]
  refine ⟨startCommand_idle h.idle _ ie vb, fun hstage => ?_, fun hstage hcrc => ?_, fun hstage hcrc hcsum => ?_,
    fun hstage hcrc hcsum => ?_⟩
  · rw [interlock_fail hstage]; rfl
  · rw [interlock_pass hstage, bodyVerify_crcMismatch hcrc]; rfl
  · rw [interlock_pass hstage, bodyVerify_checksumMismatch hcrc hcsum]; rfl
  · rw [interlock_pass hstage, bodyVerify_passes ⟨hcrc, hcsum⟩]; rfl

/-! The checksum (R152, R153). -/

theorem checksum_eq_not_sum (bs : List Byte) : checksum bs = ~~~bs.sum := by
  rw [checksum, ← List.sum_eq_foldl]
  exact BitVec.xor_allOnes

theorem toNat_sum_bytes (bs : List Byte) : bs.sum.toNat = (bs.map BitVec.toNat).sum % 256 := by
  induction bs with
  | nil => rfl
  | cons b bs ih => rw [List.sum_cons, BitVec.toNat_add, ih, List.map_cons, List.sum_cons, Nat.add_mod_mod]

theorem checksum_toNat (bs : List Byte) : (checksum bs).toNat = 255 - (bs.map BitVec.toNat).sum % 256 := by
  rw [checksum_eq_not_sum, BitVec.toNat_not, toNat_sum_bytes]

/-- Settles O54: the difference is 0 exactly at equality, and the sum with the received byte is 0xFF exactly when that byte is
the complement of the sum. -/
theorem checksumFormsAgree : Obligations.ChecksumFormsAgree := by
  refine fun bs rx => ⟨checksum_toNat bs, sub_eq_zero, ?_⟩
  have hrx := rx.isLt
  rw [← BitVec.toNat_inj, checksum_toNat]
  omega

/-- Settles O52: the nine bytes taken into the register one after the other. -/
theorem crcCheckValue : Obligations.CrcCheckValue := by
  unfold Obligations.CrcCheckValue
  decide +kernel

/-! One changed payload byte (R158). -/

theorem checksum_one_byte (l : List Byte) {x y : Byte} (r : List Byte) (h : x ≠ y) :
    checksum (l ++ x :: r) ≠ checksum (l ++ y :: r) := by
  simpa [checksum_eq_not_sum] using h

theorem payload_eq_map_range' (lay : Layout) (f : List Byte) :
    payload lay f = (List.range' lay.payStart (lay.payEnd + 1 - lay.payStart)).map (frameByte f) := by
  rw [List.range'_eq_map_range, List.map_map]
  rfl

/-- The payloads of two frames that agree off byte `k` are the same bytes around that one. -/
theorem payload_split_at_byte {lay : Layout} {f g : List Byte} {k : Nat} (hstart : lay.payStart ≤ k)
    (hend : k ≤ lay.payEnd) (hrest : ∀ j, j ≠ k → frameByte f j = frameByte g j) :
    ∃ l r, payload lay f = l ++ frameByte f k :: r ∧ payload lay g = l ++ frameByte g k :: r := by
  have hmem : k ∈ List.range' lay.payStart (lay.payEnd + 1 - lay.payStart) := List.mem_range'_1.2 (by omega)
  obtain ⟨before, after, hsplit⟩ := List.append_of_mem hmem
  have hnodup := List.nodup_range' (s := lay.payStart) (n := lay.payEnd + 1 - lay.payStart)
  rw [hsplit, List.nodup_middle, List.nodup_cons, List.mem_append, not_or] at hnodup
  obtain ⟨⟨hbefore, hafter⟩, -⟩ := hnodup
  have same {ks : List Nat} (hk : k ∉ ks) : ks.map (frameByte g) = ks.map (frameByte f) :=
    List.map_congr_left fun j hj => (hrest j (ne_of_mem_of_not_mem hj hk)).symm
  refine ⟨before.map (frameByte f), after.map (frameByte f), ?_, ?_⟩
  · rw [payload_eq_map_range', hsplit, List.map_append, List.map_cons]
  · rw [payload_eq_map_range', hsplit, List.map_append, List.map_cons, same hbefore, same hafter]

/-- Settles O53: the received values are the passing frame's, and both computed values differ from that frame's in the one
byte. -/
theorem corruptedPayloadByteFailsBothChecks : Obligations.CorruptedPayloadByteFailsBothChecks := by
  intro lay f g k _ hstart hend hcrc0 hcrc1 hcsum hne hrest ⟨hcrc, hsum⟩
  obtain ⟨l, r, hf, hg⟩ := payload_split_at_byte hstart hend hrest
  have hcrcRx : crcReceived lay f = crcReceived lay g := by
    rw [crcReceived, crcReceived, hrest _ hcrc0.symm, hrest _ hcrc1.symm]
  have hcsumRx : csumReceived lay f = csumReceived lay g := hrest _ hcsum.symm
  rw [← hcrcRx, ← hcsumRx, ← hcrc, ← hsum, hf, hg]
  exact ⟨crc16_one_byte l _ _ r hne.symm, checksum_one_byte l r hne.symm⟩

end Sys2Proof.Machine
end

section
/-! PROOFS. DISPATCH from the GO write to the commit (spec/42_dispatch.md R180, R181), and what can change VARIANT outside STAGE = 3 (R182). -/

namespace Sys2Proof.Machine

/-! DISPATCH's body on each side of its two tests (R181). -/

theorem bodyDispatch_unknownFamily {s : State} {r : Results}
    (hfam : frameByte r.frame s.layout.famPos ≠ s.layout.famVal) :
    bodyDispatch s r =
      .ended .unknownFamily { r with family := frameByte r.frame s.layout.famPos, typ := 0, var := none } := by
  simpa [hfam] using bodyDispatch_cases s r

theorem bodyDispatch_unknownType {s : State} {r : Results}
    (hfam : frameByte r.frame s.layout.famPos = s.layout.famVal)
    (htyp : typeVariant s.layout.typeMap (frameByte r.frame s.layout.typePos) = none) :
    bodyDispatch s r = .ended .unknownType
      { r with family := frameByte r.frame s.layout.famPos, typ := frameByte r.frame s.layout.typePos, var := none } := by
  simpa [hfam, htyp] using bodyDispatch_cases s r

theorem bodyDispatch_selects {s : State} {r : Results} {v : Variant}
    (hfam : frameByte r.frame s.layout.famPos = s.layout.famVal)
    (htyp : typeVariant s.layout.typeMap (frameByte r.frame s.layout.typePos) = some v) :
    bodyDispatch s r = .goOn
      { r with family := frameByte r.frame s.layout.famPos, typ := frameByte r.frame s.layout.typePos, var := some v,
               stage := .dispatched } := by
  simpa [hfam, htyp] using bodyDispatch_cases s r

/-- A type byte that no entry of TYPE_MAP names selects no variant (R180). -/
theorem typeVariant_eq_none {m : List (Byte × Variant)} {b : Byte} (h : ∀ v, (b, v) ∉ m) : typeVariant m b = none := by
  refine List.lookup_eq_none_iff.2 fun p hp => bne_iff_ne.2 ?_
  rintro rfl
  exact h p.2 hp

/-- DISPATCH's completion commits what its body comes to behind the interlock (R181, R246); the body reads LAYOUT alone of
the block, which the GO write keeps. -/
theorem completeCommand_start_dispatch (s : State) (ie vb : Bool) :
    completeCommand (s.start 0x5 ie vb) =
      finish (s.start 0x5 ie vb) (interlock .verified (bodyDispatch s) s.res) := rfl

/-- Settles O19: STAGE decides the interlock, the family byte the first test and TYPE_MAP the second. -/
theorem dispatchRunsToCompletion : Obligations.DispatchRunsToCompletion := by
  refine ⟨decode_encode (i := .dispatch false false) rfl, fun s ie vb h => ?_⟩
  simp only [step_started h, completeCommand_start_dispatch]
  refine ⟨startCommand_idle h.idle _ ie vb, fun hstage => ?_, fun hstage hfam => ?_, fun hstage hfam hnone => ?_,
    fun v hstage hfam hsome => ?_⟩
  · rw [interlock_fail hstage]; rfl
  · rw [interlock_pass hstage, bodyDispatch_unknownFamily hfam]; rfl
  · rw [interlock_pass hstage, bodyDispatch_unknownType hfam (typeVariant_eq_none hnone)]; rfl
  · rw [interlock_pass hstage, bodyDispatch_selects hfam hsome]; rfl

/-! Which commands write VARIANT: DISPATCH, and those that run the per-frame clear (R182). -/

/-- `r'` has VAR, FAMILY and TYPE of `r`. -/
def Results.SameVariant (r r' : Results) : Prop :=
  r'.var = r.var ∧ r'.family = r.family ∧ r'.typ = r.typ

theorem Results.SameVariant.refl (r : Results) : r.SameVariant r := ⟨rfl, rfl, rfl⟩

theorem bodyExtract_keepsVariant (s : State) (r : Results) : (bodyExtract s r).Leaves r.SameVariant := by
  rcases bodyExtract_cases s r with ⟨-, h⟩ | ⟨-, h⟩ <;> rw [h] <;> exact .refl r

theorem bodyVerify_keepsVariant (s : State) (r : Results) : (bodyVerify s r).Leaves r.SameVariant := by
  rcases bodyVerify_cases s r with ⟨-, h⟩ | ⟨-, -, h⟩ | ⟨-, h⟩ <;> rw [h] <;> exact .refl r

theorem bodyFields_keepsVariant {s : State} {r : Results} (hn : bodyFields s r ≠ .noVariant) :
    (bodyFields s r).Leaves r.SameVariant := by
  cases hv : r.var with
  | none => exact absurd (bodyFields_noVariant s hv) hn
  | some v =>
    rcases bodyFields_cases s hv with ⟨-, h⟩ | ⟨-, -, h⟩ | ⟨-, m, -, h⟩ <;> rw [h] <;> exact .refl r

/-- Outside STAGE = 3, where the interlock refuses DISPATCH, only DECODE, SYNC and CLEAR write VARIANT. -/
theorem commandFlow_keepsVariant {s : State} (hstage : s.res.stage ≠ .verified) (hc : s.cur ∉ [0x1, 0x2, 0x7])
    (hn : commandFlow s ≠ .noVariant) : (commandFlow s).Leaves s.res.SameVariant := by
  revert hn
  unfold commandFlow
  split
  case h_1 => exact fun _ => .refl _
  case h_2 h | h_3 h | h_8 h => exact absurd (by simp [← BitVec.toNat_inj, h]) hc
  case h_4 => exact fun _ => interlock_leaves (.refl _) fun _ => bodyExtract_keepsVariant s s.res
  case h_5 => exact fun _ => interlock_leaves (.refl _) fun _ => bodyVerify_keepsVariant s s.res
  case h_6 => exact fun _ => interlock_leaves (.refl _) fun hs => absurd hs hstage
  case h_7 =>
    exact fun hn => interlock_leaves (.refl _) fun hs => bodyFields_keepsVariant (by rwa [interlock_pass hs] at hn)
  case h_9 => exact fun _ => .refl _

theorem completeCommand_keepsVariant {s t : State} (hstage : s.res.stage ≠ .verified) (hc : s.cur ∉ [0x1, 0x2, 0x7])
    (h : completeCommand s = .next t) : s.res.SameVariant t.res := by
  obtain ⟨c, r, hr, rfl | ⟨-, rfl⟩⟩ := completeCommand_leaves h (commandFlow_keepsVariant hstage hc) <;> exact hr

/-- An input write, stored or lost, keeps VARIANT when its store does (R80, R81). -/
theorem inputWrite_keepsVariant {store : State → State} {s : State} (h : s.res.SameVariant (store s).res) :
    s.res.SameVariant (inputWrite store s).res := by
  unfold inputWrite
  split
  · exact .refl _
  · exact h

/-- A step outside STAGE = 3 is the completion of DECODE, SYNC or CLEAR or a change of the reset input, or it keeps VARIANT. -/
theorem step_clears_or_keepsVariant {s t : State} (hstage : s.res.stage ≠ .verified) (h : step s = .next t) :
    (s.completesNow ∧ s.cur ∈ [0x1, 0x2, 0x7]) ∨ s.resetsNow ∨ s.res.SameVariant t.res := by
  obtain ⟨-, ⟨now, hc⟩ | ⟨a, rest, ht, -⟩ | ⟨v, -, hx⟩ | ⟨v, -, rfl⟩ | ⟨w, v, -, -, rfl⟩ | ⟨hq, -⟩⟩ := step_cases h
  · by_cases hcur : s.cur ∈ [0x1, 0x2, 0x7]
    · exact .inl ⟨now, hcur⟩
    · exact .inr (.inr (completeCommand_keepsVariant (s := s.setTape s.tape.tail) hstage hcur hc))
  · exact .inr (.inl ⟨a, rest, ht⟩)
  · rw [exec_frame hx]
    exact .inr (.inr (.refl _))
  · exact .inr (.inr (inputWrite_keepsVariant (s := s.setTape s.tape.tail) (.refl _)))
  · exact .inr (.inr (inputWrite_keepsVariant (s := s.setTape s.tape.tail) (.refl _)))
  · rw [hq]
    exact .inr (.inr (.refl _))

/-- Settles O51: a step outside STAGE = 3 that does not keep VARIANT is one of those that clear it. -/
theorem selectedVariantIsFixed : Obligations.SelectedVariantIsFixed := by
  intro s t hstage h hchange
  rcases step_clears_or_keepsVariant hstage h with hclear | hreset | ⟨hvar, hfam, htyp⟩
  · exact .inl hclear
  · exact .inr hreset
  · simp [hvar, hfam, htyp] at hchange

end Sys2Proof.Machine
end

section
/-! PROOFS. FIELDS from the GO write to the commit (spec/43_fields.md R211, R212), the ranges of the temperature and its recovery from TEMP (R205 to R207), the moisture table (R210), and the identifier bytes (R214). -/

namespace Sys2Proof.Machine

/-! FIELDS's body on each side of its two tests (R211, R212). -/

section
variable {s : State} {r : Results} {v : Variant} (hv : r.var = some v)
include hv

theorem bodyFields_channelRange (hchan : channelValid (frameNib r.frame (fieldLayout s.layout v).chan) = false) :
    bodyFields s r = .ended .channelRange r := by
  simpa [hchan] using bodyFields_cases s hv

theorem bodyFields_moistureRange (hchan : channelValid (frameNib r.frame (fieldLayout s.layout v).chan) = true)
    (hmoist : moisture (fieldLayout s.layout v).mstMode (moistureRaw (fieldLayout s.layout v) r.frame) = none) :
    bodyFields s r = .ended .moistureRange r := by
  simpa [hchan, hmoist] using bodyFields_cases s hv

theorem bodyFields_decodes {m : Nat} (hchan : channelValid (frameNib r.frame (fieldLayout s.layout v).chan) = true)
    (hmoist : moisture (fieldLayout s.layout v).mstMode (moistureRaw (fieldLayout s.layout v) r.frame) = some m) :
    bodyFields s r = .goOn (fieldResults s.layout (fieldLayout s.layout v) m r) := by
  simpa [hchan, hmoist] using bodyFields_cases s hv

/-- FIELDS's body goes on exactly past both tests, and then to the whole reading. -/
theorem bodyFields_eq_goOn_iff {t : Results} :
    bodyFields s r = .goOn t ↔
      channelValid (frameNib r.frame (fieldLayout s.layout v).chan) = true ∧
      ∃ m, moisture (fieldLayout s.layout v).mstMode (moistureRaw (fieldLayout s.layout v) r.frame) = some m ∧
        t = fieldResults s.layout (fieldLayout s.layout v) m r := by
  constructor
  · intro h
    rcases bodyFields_cases s hv with ⟨-, he⟩ | ⟨-, -, he⟩ | ⟨hchan, m, hmoist, he⟩ <;> rw [he] at h
    · cases h
    · cases h
    · exact ⟨hchan, m, hmoist, (Flow.goOn.inj h).symm⟩
  · rintro ⟨hchan, m, hmoist, rfl⟩
    exact bodyFields_decodes hv hchan hmoist

end

theorem channelValid_eq_false {ch : Nibble} (h : ch.toNat = 0 ∨ 8 ≤ ch.toNat) : channelValid ch = false := by
  rw [← Bool.not_eq_true, channelValid_iff]
  omega

/-! The moisture value in both modes (R209, R210). -/

/-- Only TABLE mode has a bounds check, and it fails outside 1..16. -/
theorem moisture_eq_none {mode : MoistureMode} {raw : Nat} (h : mode = .table ∧ (raw = 0 ∨ 17 ≤ raw)) :
    moisture mode raw = none := by
  obtain ⟨rfl, hraw⟩ := h
  exact if_neg (by omega)

theorem moisture_eq_some {mode : MoistureMode} {raw m : Nat}
    (h : (mode = .direct ∧ m = raw) ∨ (mode = .table ∧ 1 ≤ raw ∧ raw ≤ 16 ∧ moistureTable[raw - 1]? = some m)) :
    moisture mode raw = some m := by
  rcases h with ⟨rfl, rfl⟩ | ⟨rfl, hlow, hhigh, hm⟩
  · rfl
  · rw [moisture, if_pos ⟨hlow, hhigh⟩, List.getD_eq_getElem?_getD, hm, Option.getD_some]

/-- Settles O56: the sixteen entries by evaluation, and every index outside 1..16 by the bounds check. -/
theorem moistureTableMapsEveryIndex : Obligations.MoistureTableMapsEveryIndex :=
  ⟨by decide, moisture_eq_none ⟨rfl, .inl rfl⟩, fun _ hraw => moisture_eq_none ⟨rfl, .inr hraw⟩, by decide, by decide,
    by decide⟩

/-! The temperature for each sign (R204 to R207). -/

section
variable {g : FieldLayout} {f : List Byte}

theorem temperature_positive (hsign : frameBit f g.statPos g.signBit = false) :
    temperature g f = 100 * ((frameNib f ⟨g.t0Pos, .hi⟩).toNat : Int) + 10 * ((frameNib f ⟨g.t0Pos, .lo⟩).toNat : Int) +
      ((frameNib f ⟨g.t1Pos, .hi⟩).toNat : Int) := by
  simp only [temperature, hsign, Bool.false_eq_true, if_false, bcd2]
  omega

theorem temperature_negative (hsign : frameBit f g.statPos g.signBit = true) :
    temperature g f = -(10 * ((frameNib f g.negA).toNat : Int) + ((frameNib f g.negB).toNat : Int)) := by
  simp only [temperature, hsign, if_true, bcd2]
  omega

/-- The two formulas, one for each sign, are the temperature. -/
theorem eq_temperature {T : Int}
    (hpos : frameBit f g.statPos g.signBit = false → T = 100 * ((frameNib f ⟨g.t0Pos, .hi⟩).toNat : Int) +
      10 * ((frameNib f ⟨g.t0Pos, .lo⟩).toNat : Int) + ((frameNib f ⟨g.t1Pos, .hi⟩).toNat : Int))
    (hneg : frameBit f g.statPos g.signBit = true →
      T = -(10 * ((frameNib f g.negA).toNat : Int) + ((frameNib f g.negB).toNat : Int))) :
    T = temperature g f := by
  cases hsign : frameBit f g.statPos g.signBit with
  | false => rw [hpos hsign, temperature_positive hsign]
  | true => rw [hneg hsign, temperature_negative hsign]

/-- A nibble is at most 15, so the three digits give at most 1665. -/
theorem temperature_positive_range (hsign : frameBit f g.statPos g.signBit = false) :
    0 ≤ temperature g f ∧ temperature g f ≤ 1665 := by
  have hundreds := (frameNib f ⟨g.t0Pos, .hi⟩).isLt
  have htens := (frameNib f ⟨g.t0Pos, .lo⟩).isLt
  have hunits := (frameNib f ⟨g.t1Pos, .hi⟩).isLt
  rw [temperature_positive hsign]
  omega

theorem temperature_negative_range (hsign : frameBit f g.statPos g.signBit = true) :
    -165 ≤ temperature g f ∧ temperature g f ≤ 0 := by
  have htens := (frameNib f g.negA).isLt
  have hunits := (frameNib f g.negB).isLt
  rw [temperature_negative hsign]
  omega

/-- Both ranges lie within 16-bit two's complement, so sign extension of TEMP gives the temperature back (R207). -/
theorem toInt_ofInt_temperature (g : FieldLayout) (f : List Byte) :
    (BitVec.ofInt 16 (temperature g f)).toInt = temperature g f := by
  have hrange : -165 ≤ temperature g f ∧ temperature g f ≤ 1665 := by
    cases hsign : frameBit f g.statPos g.signBit with
    | false => have := temperature_positive_range hsign; omega
    | true => have := temperature_negative_range hsign; omega
  exact BitVec.toInt_ofInt_eq_self (by decide) (by omega) (by omega)

/-- Settles O55: both ranges, the recovery from TEMP, and the negative zero. -/
theorem temperatureIsRecoveredFromTemp : Obligations.TemperatureIsRecoveredFromTemp := by
  refine fun g f => ⟨temperature_positive_range, temperature_negative_range, toInt_ofInt_temperature g f,
    fun hsign hA hB => ?_⟩
  rw [temperature_negative hsign, hA, hB]
  rfl

end

/-! From the GO write to the completion. -/

/-- FIELDS's completion commits what its body comes to behind the interlock (R212, R246); the body reads LAYOUT alone of the
block, which the GO write keeps. -/
theorem completeCommand_start_fields (s : State) (ie vb : Bool) :
    completeCommand (s.start 0x6 ie vb) =
      finish (s.start 0x6 ie vb) (interlock .dispatched (bodyFields s) s.res) := rfl

/-- Settles O20: STAGE decides the interlock, the channel the first test and the moisture index the second. -/
theorem fieldsRunsToCompletion : Obligations.FieldsRunsToCompletion := by
  refine ⟨decode_encode (i := .fields false false) rfl, fun s ie vb h => ?_⟩
  simp only [step_started h, completeCommand_start_fields]
  refine ⟨startCommand_idle h.idle _ ie vb, fun hstage => ?_, fun v hstage hv => ?_⟩
  · rw [interlock_fail hstage]; rfl
  · rw [interlock_pass hstage]
    -- The statement's choice of the record by the variant is `VL[v]` (R7).
    change let G := fieldLayout s.layout v; _
    refine ⟨fun hchan => ?_, fun hlow hhigh hmode hraw => ?_, fun T m hlow hhigh hpos hneg hm => ?_⟩
    · rw [bodyFields_channelRange hv (channelValid_eq_false hchan)]; rfl
    · have hchan := (channelValid_iff _).2 ⟨hlow, hhigh⟩
      rw [bodyFields_moistureRange hv hchan (moisture_eq_none ⟨hmode, hraw⟩)]; rfl
    · have hchan := (channelValid_iff _).2 ⟨hlow, hhigh⟩
      obtain rfl : T = temperature (fieldLayout s.layout v) s.res.frame := eq_temperature hpos hneg
      rw [bodyFields_decodes hv hchan (moisture_eq_some hm)]; rfl

/-! The identifier (R214). -/

theorem layoutWf_idLen {lay : Layout} (hl : layoutWf lay = true) : lay.idLen ≤ 8 := by
  simp only [layoutWf, List.all_cons, id, Bool.and_eq_true, decide_eq_true_eq] at hl
  omega

theorem idByte_eq_iff {lay : Layout} {f g : List Byte} {j : Nat} :
    idByte lay f j = idByte lay g j ↔ (j < lay.idLen → frameByte f (lay.idPos + j) = frameByte g (lay.idPos + j)) := by
  by_cases hj : j < lay.idLen <;> simp [idByte, hj]

theorem idWord_eq_iff {lay : Layout} {f g : List Byte} {base : Nat} :
    idWord lay f base = idWord lay g base ↔ ∀ j, j < 4 → idByte lay f (base + j) = idByte lay g (base + j) := by
  refine ⟨fun h j hj => ?_, fun h => word_eq_of_lanes fun j hj => ?_⟩
  · rw [← idWord_lane lay f base hj, h, idWord_lane lay g base hj]
  · rw [idWord_lane lay f base hj, h j hj, idWord_lane lay g base hj]

/-- ID0 and ID1 hold all of the identifier, which has at most eight bytes (R78). -/
theorem idWords_eq_iff {lay : Layout} (hl : layoutWf lay = true) {f g : List Byte} :
    (idWord lay f 0 = idWord lay g 0 ∧ idWord lay f 4 = idWord lay g 4) ↔
      ∀ j, j < lay.idLen → frameByte f (lay.idPos + j) = frameByte g (lay.idPos + j) := by
  have hlen := layoutWf_idLen hl
  simp only [idWord_eq_iff, Nat.zero_add]
  refine ⟨fun ⟨h0, h4⟩ j hj => ?_, fun h => ⟨fun j _ => idByte_eq_iff.2 (h j), fun j _ => idByte_eq_iff.2 (h (4 + j))⟩⟩
  rcases Nat.lt_or_ge j 4 with hlow | hhigh
  · exact idByte_eq_iff.1 (h0 j hlow) hj
  · have hlane := h4 (j - 4) (by omega)
    rw [Nat.add_sub_cancel' hhigh] at hlane
    exact idByte_eq_iff.1 hlane hj

theorem idWords_ne_iff {lay : Layout} (hl : layoutWf lay = true) {f g : List Byte} :
    (idWord lay f 0 ≠ idWord lay g 0 ∨ idWord lay f 4 ≠ idWord lay g 4) ↔
      ∃ j, j < lay.idLen ∧ frameByte f (lay.idPos + j) ≠ frameByte g (lay.idPos + j) := by
  rw [← not_and_or, idWords_eq_iff hl]
  simp only [not_forall, exists_prop]

/-! The other fields read their own bytes alone (R211). -/

/-- `f` and `f'` have the same byte wherever a field of `G` other than the identifier is read. -/
def FieldBytesAgree (G : FieldLayout) (f f' : List Byte) : Prop :=
  ∀ k ∈ [G.chan.index, G.statPos, G.t0Pos, G.t1Pos, G.negA.index, G.negB.index, G.mstPos], frameByte f k = frameByte f' k

theorem frameNib_congr {f f' : List Byte} {p : NibblePos} (h : frameByte f p.index = frameByte f' p.index) :
    frameNib f p = frameNib f' p := by
  rw [frameNib, h, frameNib]

theorem frameBit_congr {f f' : List Byte} {k : Nat} (h : frameByte f k = frameByte f' k) :
    frameBit f k = frameBit f' k := by
  funext b
  rw [frameBit, h, frameBit]

section
variable {G : FieldLayout} {f f' : List Byte} (h : FieldBytesAgree G f f')
include h

theorem FieldBytesAgree.chan : frameNib f G.chan = frameNib f' G.chan := frameNib_congr (h _ (by simp))

theorem FieldBytesAgree.status : frameBit f G.statPos = frameBit f' G.statPos := frameBit_congr (h _ (by simp))

theorem FieldBytesAgree.temperature : temperature G f = temperature G f' := by
  have ht0 (half : NibbleHalf) : frameNib f ⟨G.t0Pos, half⟩ = frameNib f' ⟨G.t0Pos, half⟩ := frameNib_congr (h _ (by simp))
  have ht1 : frameNib f ⟨G.t1Pos, .hi⟩ = frameNib f' ⟨G.t1Pos, .hi⟩ := frameNib_congr (h _ (by simp))
  have hA : frameNib f G.negA = frameNib f' G.negA := frameNib_congr (h _ (by simp))
  have hB : frameNib f G.negB = frameNib f' G.negB := frameNib_congr (h _ (by simp))
  simp only [Machine.temperature, h.status, ht0, ht1, hA, hB]

theorem FieldBytesAgree.moistureRaw : moistureRaw G f = moistureRaw G f' := by
  have hbyte (half : NibbleHalf) : frameNib f ⟨G.mstPos, half⟩ = frameNib f' ⟨G.mstPos, half⟩ :=
    frameNib_congr (h _ (by simp))
  simp only [Machine.moistureRaw, hbyte]

end

/-- Settles O60: both tests and every field but the identifier read bytes on which the frames agree, and the two identifier
words are equal exactly when the identifier bytes are. -/
theorem identifierBytesChangeOnlyTheIdentifier : Obligations.IdentifierBytesChangeOnlyTheIdentifier := by
  intro s r t g v hl hv G hagree hgo
  have h : FieldBytesAgree G r.frame g := hagree
  obtain ⟨hchan, m, hmoist, rfl⟩ := (bodyFields_eq_goOn_iff hv).1 hgo
  refine ⟨fieldResults s.layout G m { r with frame := g },
    (bodyFields_eq_goOn_iff (r := { r with frame := g }) hv).2 ⟨h.chan ▸ hchan, m, h.moistureRaw ▸ hmoist, rfl⟩,
    h.chan.symm, congrFun h.status.symm _, congrFun h.status.symm _, congrArg (BitVec.ofInt 16) h.temperature.symm,
    congrArg (BitVec.ofNat 8) h.moistureRaw.symm, rfl, ?_⟩
  exact (exists_congr fun _ => and_congr_right' ne_comm).trans (idWords_ne_iff hl).symm

end Sys2Proof.Machine
end

section
/-! PROOFS. The start and the completion of a command (spec/44_control.md R240, R241), the commands whose outcome is fixed (R242, R244, R245), and what a completion writes (R241). -/

namespace Sys2Proof.Machine

/-! From the GO write to the completion. -/

/-- Settles O7: each of the nine rows starts its code, and the start of an idle block is R240's. -/
theorem goWriteStartsItsCommand : Obligations.GoWriteStartsItsCommand := by
  intro s ie vb hidle
  have starts (code : Nibble) : startCommand code ie vb s = .next (s.started code ie vb) :=
    startCommand_idle hidle code ie vb
  exact ⟨starts _, starts _, starts _, starts _, starts _, starts _, starts _, starts _, fun code _ => starts code⟩

/-- Settles O13: NOP's completion commits OK beside the registers as they were. -/
theorem nopRunsToCompletion : Obligations.NopRunsToCompletion :=
  ⟨decode_encode (i := .nop false false) rfl, fun _ ie vb h => ⟨startCommand_idle h.idle _ ie vb, step_started h _ ie vb⟩⟩

/-- Settles O14: CLEAR's completion commits OK beside the cleared registers, with OVR cleared. -/
theorem clearRunsToCompletion : Obligations.ClearRunsToCompletion :=
  ⟨decode_encode (i := .clear false false) rfl,
    fun _ ie vb h => ⟨startCommand_idle h.idle _ ie vb, step_started h _ ie vb⟩⟩

/-- The completion of a code 0x8 to 0xF commits ILLEGAL_COMMAND beside the registers as they were (R245). -/
theorem completeCommand_reserved {s : State} (h : s.cur.getLsbD 3 = true) :
    completeCommand s = .next (s.commit .illegalCommand s.res) := by
  have hcode : 8 ≤ s.cur.toNat := by
    generalize s.cur = code at h
    revert code
    decide
  obtain ⟨k, hk⟩ := Nat.exists_eq_add_of_le' hcode
  unfold completeCommand
  rw [hk]
  rfl

/-- Settles O15: a well-formed reserved code has bit 3 set, and its completion is R245's. -/
theorem reservedCodeRunsToIllegalCommand : Obligations.ReservedCodeRunsToIllegalCommand := by
  intro s code ie vb h hwf
  refine ⟨decode_encode hwf, startCommand_idle h.idle code ie vb, ?_, rfl, rfl⟩
  rw [step_started h, completeCommand_reserved (s := s.start code ie vb) hwf]
  rfl

/-! The completion step. -/

/-- A step that completes the running command, with the core's move taken off the tape if it stands there (R241). -/
theorem step_completesNow {s : State} (hl : layoutWf s.layout = true) (now : s.completesNow) :
    step s = completeCommand (s.setTape s.tape.tail) := by
  obtain ⟨hbusy, hreset, ht | ⟨rest, ht⟩⟩ := now
  · have hs : s.setTape s.tape.tail = s := by rw [ht]; exact congrArg (fun tape => s.setTape tape) ht.symm
    rw [hs]
    simp [step, hl, nextMove, ht, coreMove, hbusy, hreset]
  · simp [step, hl, nextMove, ht, runMove, coreMove, hbusy, hreset]

/-- Settles O26: a completion is a commit, for CLEAR with OVR cleared, and a commit touches no other register. -/
theorem completionFrame : Obligations.CompletionFrame := by
  intro s t now h
  rw [step_completesNow (step_cases h).1 now] at h
  obtain ⟨c, r, rfl | ⟨h7, rfl⟩⟩ := completeCommand_next h
  · exact ⟨rfl, rfl, rfl, rfl, rfl, .inl rfl, congrFun (bufByte_congr rfl rfl)⟩
  · exact ⟨rfl, rfl, rfl, rfl, rfl, .inr ⟨h7, rfl⟩, congrFun (bufByte_congr rfl rfl)⟩

end Sys2Proof.Machine
end

section
/-! PROOFS. DECODE as the five bodies in order (spec/44_control.md R243, spec/60_exceptions.md R274): where it ends, that it leaves the same state when run again, and that the five steps run one by one leave what it leaves (R247). -/

namespace Sys2Proof.Machine

/-! DECODE ends at the first failure (R243, R274). -/

/-- The match's end is what EXTRACT reads as the offset, and the frame there is the one EXTRACT copies (R130, R131). -/
theorem bodyExtract_copies {s : State} {r : Results} {off : Nat} {f : List Byte} (hoff : r.syncOff.toNat = off)
    (hfit : off + 8 * s.layout.frameLen ≤ s.rowLen.toNat) (hf : IsFrameAt s off f) :
    bodyExtract s r = .goOn { r with frame := f, stage := .extracted } := by
  subst hoff
  rw [bodyExtract_fits hfit, hf.unique (isFrameAt_extractFrame s _)]

/-- DECODE's completion comes next and commits what the pipeline comes to (R240, R241, R243). -/
theorem step_started_decode {s : State} (h : ReadyForGo s) (ie vb : Bool) :
    step (s.started 0x1 ie vb).coreNext = finish (s.start 0x1 ie vb) (pipeline s) :=
  (step_started h 0x1 ie vb).trans (completeCommand_start_decode s ie vb)

/-- Settles O21: each body goes on to the next one or ends the pipeline, and DECODE commits what it comes to. -/
theorem decodeRunsThePipelineInOrder : Obligations.DecodeRunsThePipelineInOrder := by
  refine ⟨decode_encode (i := .decode false false) rfl, fun s ie vb h => ?_⟩
  intro z after ends
  have fails {c : ResultCode} {r : Results} (hf : pipeline s = .ended c r) : ends c (classOf c) r :=
    (step_started_decode h ie vb).trans (by rw [hf]; rfl)
  have succeeds {r : Results} (hf : pipeline s = .goOn r) : ends .ok .none r :=
    (step_started_decode h ie vb).trans (by rw [hf]; rfl)
  refine ⟨startCommand_idle h.idle _ ie vb, fun hlen => fails ?_, fun hlen hnone => fails ?_, ?_⟩
  · rw [pipeline, bodySync_badRowlen hlen]; rfl
  · rw [pipeline, bodySync_notFound hlen hnone]; rfl
  intro p hlen hp off r1
  have hsync : bodySync s = .goOn r1 := bodySync_found hlen hp
  have hoff : r1.syncOff.toNat = off := syncOff_toNat hp
  -- From here on `fails` and `succeeds` ask only for what the bodies still to come do.
  simp only [pipeline, hsync, Flow.goOn_andThen] at fails succeeds
  refine ⟨fun hshort => fails ?_, ?_⟩
  · rw [bodyExtract_tooShort (by rwa [hoff])]; rfl
  intro f hfit hf r2 v2
  have hextract : bodyExtract s r1 = .goOn r2 := bodyExtract_copies hoff hfit hf
  simp only [hextract, Flow.goOn_andThen] at fails succeeds
  refine ⟨fun hcrc => fails ?_, fun hcrc hcsum => fails ?_, ?_⟩
  · rw [bodyVerify_crcMismatch (r := r2) hcrc]; rfl
  · rw [bodyVerify_checksumMismatch (r := r2) hcrc hcsum]; rfl
  intro hpass r3 fam typ
  have hverify : bodyVerify s r2 = .goOn r3 := bodyVerify_passes (r := r2) hpass
  simp only [hverify, Flow.goOn_andThen] at fails succeeds
  refine ⟨fun hfam => fails ?_, fun hfam htyp => fails ?_, ?_⟩
  · rw [bodyDispatch_unknownFamily (r := r3) hfam]; rfl
  · rw [bodyDispatch_unknownType (r := r3) hfam htyp]; rfl
  intro v hfam htyp r4 G
  have hdispatch : bodyDispatch s r3 = .goOn r4 := bodyDispatch_selects (r := r3) hfam htyp
  simp only [hdispatch, Flow.goOn_andThen] at fails succeeds
  exact ⟨fun hchan => fails (bodyFields_channelRange rfl hchan),
    fun hchan hmoist => fails (bodyFields_moistureRange rfl hchan hmoist),
    fun m hchan hmoist => succeeds (bodyFields_decodes rfl hchan hmoist)⟩

/-! DECODE on the input it has decoded (R243). -/

/-- What a GO write of command `code` and the completion with what its pseudocode comes to leave, if anything. -/
def State.ranTo (s : State) (code : Nibble) (ie vb : Bool) : Flow → Option State
  | .goOn r => some (s.completed code ie vb .ok .none r)
  | .ended c r => some (s.completed code ie vb c (classOf c) r)
  | .noVariant => none

/-- `RUN` of a command on a ready block ends in what its pseudocode comes to. -/
theorem runOne_eq_ranTo {i : Instr} {code : Nibble} {ie vb : Bool} {s : State} {f : Flow} (h : ReadyForGo s)
    (hi : exec i s = startCommand code ie vb s)
    (hc : completeCommand (s.start code ie vb) = finish (s.start code ie vb) f) : runOne i s = s.ranTo code ie vb f := by
  have hstep : step (s.start code ie vb).coreNext = finish (s.start code ie vb) f := (step_started h code ie vb).trans hc
  simp only [runOne, hi, startCommand_idle h.idle, hstep]
  cases f <;> rfl

/-- A flow that leaves registers is committed with one code, whatever the command that is run. -/
theorem Flow.Leaves.ranTo_eq_some {P : Results → Prop} {f : Flow} (hf : f.Leaves P) (s : State) :
    ∃ c r, ∀ code ie vb, s.ranTo code ie vb f = some (s.completed code ie vb c (classOf c) r) := by
  cases f with
  | goOn r => exact ⟨.ok, r, fun _ _ _ => rfl⟩
  | ended c r => exact ⟨c, r, fun _ _ _ => rfl⟩
  | noVariant => exact hf.elim

theorem runOne_decode_eq_ranTo {s : State} (h : ReadyForGo s) (ie vb : Bool) :
    runOne (.decode ie vb) s = s.ranTo 0x1 ie vb (pipeline s) :=
  runOne_eq_ranTo h rfl (completeCommand_start_decode s ie vb)

/-- A completed block is ready for the next command. -/
theorem ReadyForGo.completed {s : State} (h : ReadyForGo s) (code : Nibble) (ie vb : Bool) (c : ResultCode)
    (cl : ResultClass) (r : Results) : ReadyForGo (s.completed code ie vb c cl r) :=
  ⟨h.layout, h.noReset, rfl⟩

/-- A second command's completion covers all that the first one's wrote. -/
theorem State.ranTo_completed (s : State) (code code' : Nibble) (ie vb ie' vb' : Bool) (c : ResultCode)
    (cl : ResultClass) (r : Results) (f : Flow) :
    (s.completed code ie vb c cl r).ranTo code' ie' vb' f = s.ranTo code' ie' vb' f := by
  cases f <;> rfl

/-- A completion touches nothing that the pipeline reads (R241, R243). -/
theorem pipeline_completed (s : State) (code : Nibble) (ie vb : Bool) (c : ResultCode) (cl : ResultClass)
    (r : Results) : pipeline (s.completed code ie vb c cl r) = pipeline s :=
  pipeline_congr rfl rfl fun _ _ => rfl

/-- Settles O23: the pipeline does not read what the first DECODE wrote, and the second one's completion covers it. -/
theorem decodeTwiceGivesTheSameState : Obligations.DecodeTwiceGivesTheSameState := by
  intro s ie vb h
  obtain ⟨c, r, hrun⟩ := (pipeline_sound s).ranTo_eq_some s
  refine ⟨s.completed 0x1 ie vb c (classOf c) r, (runOne_decode_eq_ranTo h ie vb).trans (hrun _ ie vb), ?_⟩
  rw [runOne_decode_eq_ranTo (h.completed ..), pipeline_completed, State.ranTo_completed, hrun]

/-! The five steps one by one (R246, R247). -/

theorem Flow.andThen_assoc (f : Flow) (g k : Results → Flow) :
    (f.andThen g).andThen k = f.andThen fun r => (g r).andThen k := by
  cases f <;> rfl

theorem Flow.andThen_goOn (f : Flow) : f.andThen .goOn = f := by
  cases f <;> rfl

/-- The pipeline, each body followed by all that comes after it (R243). -/
theorem pipeline_eq_nested (s : State) :
    pipeline s = (bodySync s).andThen fun r1 => (bodyExtract s r1).andThen fun r2 => (bodyVerify s r2).andThen fun r3 =>
      (bodyDispatch s r3).andThen fun r4 => (bodyFields s r4).andThen .goOn := by
  simp only [pipeline, Flow.andThen_assoc, Flow.andThen_goOn]

/-- A body that goes on sets STAGE to `g`, and one that ends does so with a failure. -/
def Flow.Advances (g : Stage) : Flow → Prop
  | .goOn r => r.stage = g
  | .ended c _ => c ≠ .ok
  | .noVariant => True

theorem bodySync_advances (s : State) : (bodySync s).Advances .synced := by
  rcases bodySync_cases s with ⟨-, h⟩ | ⟨-, -, h⟩ | ⟨-, p, -, h⟩ <;> rw [h]
  · exact nofun
  · exact nofun
  · exact rfl

theorem bodyExtract_advances (s : State) (r : Results) : (bodyExtract s r).Advances .extracted := by
  rcases bodyExtract_cases s r with ⟨-, h⟩ | ⟨-, h⟩ <;> rw [h]
  · exact nofun
  · exact rfl

theorem bodyVerify_advances (s : State) (r : Results) : (bodyVerify s r).Advances .verified := by
  rcases bodyVerify_cases s r with ⟨-, h⟩ | ⟨-, -, h⟩ | ⟨-, h⟩ <;> rw [h]
  · exact nofun
  · exact nofun
  · exact rfl

theorem bodyDispatch_advances (s : State) (r : Results) : (bodyDispatch s r).Advances .dispatched := by
  rcases bodyDispatch_cases s r with ⟨-, h⟩ | ⟨-, -, h⟩ | ⟨-, v, -, h⟩ <;> rw [h]
  · exact nofun
  · exact nofun
  · exact rfl

theorem bodyFields_advances (s : State) (r : Results) : (bodyFields s r).Advances .decoded := by
  cases hv : r.var with
  | none => rw [bodyFields_noVariant s hv]; trivial
  | some v =>
    rcases bodyFields_cases s hv with ⟨-, h⟩ | ⟨-, -, h⟩ | ⟨-, m, -, h⟩ <;> rw [h]
    · exact nofun
    · exact nofun
    · exact rfl

theorem runChain_cons_ok {i : Instr} {is : List Instr} {u t : State} (hrun : runOne i u = some t)
    (ht : t.result = .ok) : runChain (i :: is) u = runChain is t := by
  simp only [runChain, hrun, if_pos ht]

theorem runChain_cons_failed {i : Instr} {is : List Instr} {u t : State} (hrun : runOne i u = some t)
    (ht : t.result ≠ .ok) : runChain (i :: is) u = some t := by
  simp only [runChain, hrun, if_neg ht]

theorem runChain_cons_none {i : Instr} {is : List Instr} {u : State} (hrun : runOne i u = none) :
    runChain (i :: is) u = none := by
  simp only [runChain, hrun]

/-- When a chain's first command comes to `f` and, after OK, the rest comes to `next`, the chain comes to the one after the
other, up to which command ran last. -/
theorem runChain_eq_ranTo {s u : State} {i : Instr} {is : List Instr} {code : Nibble} {f : Flow} {g : Stage}
    {next : Results → Flow} (hrun : runOne i u = s.ranTo code false false f) (hf : f.Advances g)
    (hnext : ∀ r, r.stage = g →
      ∃ last, runChain is (s.completed code false false .ok .none r) = s.ranTo last false false (next r)) :
    ∃ last, runChain (i :: is) u = s.ranTo last false false (f.andThen next) := by
  cases f with
  | goOn r =>
    obtain ⟨last, hrest⟩ := hnext r hf
    exact ⟨last, (runChain_cons_ok hrun rfl).trans hrest⟩
  | ended c r => exact ⟨code, runChain_cons_failed hrun hf⟩
  | noVariant => exact ⟨code, runChain_cons_none hrun⟩

/-- A step command after the one before it gave OK: the interlock lets it through, and its flow is that of its body
(R246). -/
theorem runOne_step {s : State} (h : ReadyForGo s) {r : Results} {need : Stage} (hr : r.stage = need) {i : Instr}
    {prev code : Nibble} {body : Results → Flow}
    (hi : exec i (s.completed prev false false .ok .none r) =
      startCommand code false false (s.completed prev false false .ok .none r))
    (hc : completeCommand ((s.completed prev false false .ok .none r).start code false false) =
      finish ((s.completed prev false false .ok .none r).start code false false) (interlock need body r)) :
    runOne i (s.completed prev false false .ok .none r) = s.ranTo code false false (body r) := by
  rw [interlock_pass hr] at hc
  rw [runOne_eq_ranTo (h.completed ..) hi hc, State.ranTo_completed]

/-- Settles O22: each step command runs the body that DECODE runs, on the registers the one before it left. -/
theorem stepwiseRunEqualsDecode : Obligations.StepwiseRunEqualsDecode := by
  intro s h
  obtain ⟨last, hchain⟩ : ∃ last, runChain [.sync false false, .extract false false, .verify false false,
      .dispatch false false, .fields false false] s = s.ranTo last false false (pipeline s) := by
    rw [pipeline_eq_nested]
    refine runChain_eq_ranTo (runOne_eq_ranTo h rfl (completeCommand_start_sync s false false)) (bodySync_advances s)
      fun r1 h1 => ?_
    refine runChain_eq_ranTo (runOne_step h h1 rfl (completeCommand_start_extract ..)) (bodyExtract_advances s r1)
      fun r2 h2 => ?_
    refine runChain_eq_ranTo (runOne_step h h2 rfl (completeCommand_start_verify ..)) (bodyVerify_advances s r2)
      fun r3 h3 => ?_
    refine runChain_eq_ranTo (runOne_step h h3 rfl (completeCommand_start_dispatch ..)) (bodyDispatch_advances s r3)
      fun r4 h4 => ?_
    exact runChain_eq_ranTo (runOne_step h h4 rfl (completeCommand_start_fields ..)) (bodyFields_advances s r4)
      fun r5 _ => ⟨_, rfl⟩
  obtain ⟨c, r, hrun⟩ := (pipeline_sound s).ranTo_eq_some s
  exact ⟨_, _, hchain.trans (hrun ..), (runOne_decode_eq_ranTo h false false).trans (hrun ..), rfl⟩

end Sys2Proof.Machine
end

section
/-! PROOFS. Every started command completes unless the reset input abandons it (spec/44_control.md R241, spec/70_reset_and_hazards.md R300, R308): the steps up to its completion, and the induction on the moves to come. -/

namespace Sys2Proof.Machine

/-- Within `n` steps `s` has completed the command that runs in it. -/
def State.CompletesWithin (s : State) (n : Nat) : Prop :=
  ∃ k t, k ≤ n ∧ Host.Core.run Sys2Proof.core k s = .next t ∧ t.busy = false ∧ t.done = true ∧ t.lastCmd = s.cur

theorem run_succ {s u : State} (h : step s = .next u) (k : Nat) :
    Host.Core.run Sys2Proof.core (k + 1) s = Host.Core.run Sys2Proof.core k u := by
  simp only [Host.Core.run, show Sys2Proof.core.step s = .next u from h]

theorem State.CompletesWithin.mono {s : State} {n n' : Nat} (h : s.CompletesWithin n) (hn : n ≤ n') :
    s.CompletesWithin n' := by
  obtain ⟨k, t, hk, hdone⟩ := h
  exact ⟨k, t, hk.trans hn, hdone⟩

/-- A step that keeps the running command puts its completion off by one step. -/
theorem State.CompletesWithin.of_step {s u : State} {n : Nat} (h : u.CompletesWithin n) (hstep : step s = .next u)
    (hcur : u.cur = s.cur) : s.CompletesWithin (n + 1) := by
  obtain ⟨k, t, hk, hrun, hbusy, hdone, hlast⟩ := h
  exact ⟨k + 1, t, Nat.succ_le_succ hk, (run_succ hstep k).trans hrun, hbusy, hdone, hlast.trans hcur⟩

/-- Under the invariant the completion step always has a next state, since FIELDS has a variant (R181). -/
theorem completesWithin_one {s : State} (h : s.Inv) (now : s.completesNow) : s.CompletesWithin 1 := by
  obtain ⟨c, r, -, hcommit⟩ := (commandFlow_sound (inv_setTape h s.tape.tail).resultsSound).finish_commits
  have hstep := (step_completesNow h.layout now).trans ((completeCommand_eq_finish _).trans (hcommit _))
  obtain ⟨hbusy, hdone, hlast, -⟩ := completionFrame s _ now hstep
  exact ⟨1, _, le_rfl, run_succ hstep 0, hbusy, hdone, hlast⟩

/-- In reset no command runs (R300). -/
theorem State.Inv.noReset_of_busy {s : State} (h : s.Inv) (hb : s.busy = true) : s.inReset = false := by
  by_contra hr
  have hidle := congrArg State.busy (h.reset (by simpa using hr))
  exact absurd (hidle.trans hb) (by simp)

theorem inputWrite_tape {store : State → State} {s : State} (h : (store s).tape = s.tape) :
    (inputWrite store s).tape = s.tape := by
  unfold inputWrite
  split
  · rfl
  · exact h

/-- A write leaves the moves to come as they are. -/
theorem memWrite_tape {addr v : Word} {s t : State} (h : memWrite addr v s = .next t) : t.tape = s.tape := by
  unfold memWrite at h
  split at h
  · cases h; rfl
  rcases writeTarget_cases (wordIndex addr) v s with ⟨-, he⟩ | ⟨-, he⟩ | ⟨w, -, -, he⟩ | ⟨-, -, -, he⟩ <;> rw [he] at h
  · rw [exec_frame h]
  · cases h; exact inputWrite_tape rfl
  · cases h; exact inputWrite_tape rfl
  · cases h; rfl

/-- A host move always answers a next state, and takes itself off the tape or, for a POLL whose condition fails, puts the
core's move in front of itself (spec/20_memory.md R73, spec/30_encoding.md R109). -/
theorem step_host_next {s : State} {m : Move} {rest : List Move} (hl : layoutWf s.layout = true) (ht : s.tape = m :: rest)
    (hm : m.isHost = true) : ∃ t, step s = .next t ∧ (t.tape = rest ∨ t.tape = .core :: s.tape) := by
  cases m with
  | write addr v =>
    obtain ⟨t, hw⟩ := memWrite_next addr v (s.setTape rest)
    exact ⟨t, (step_write hl ht).trans hw, .inl (memWrite_tape hw)⟩
  | read addr => exact ⟨_, step_read hl ht, .inl rfl⟩
  | poll addr mask val =>
    refine ⟨_, step_poll hl ht, ?_⟩
    by_cases hv : memRead s addr &&& mask = val
    · exact .inl (if_pos hv)
    · exact .inr ((if_neg hv).trans (by rw [ht]))
  | expect addr mask val => exact ⟨_, step_expect hl ht, .inl rfl⟩
  | core => cases hm
  | resetInput a => cases hm

/-- A command that runs completes while the moves on the tape are made, or right after them: the core's move completes it,
and a host move spares it, so that it completes on the rest of the tape or, after a failed POLL, at once. -/
theorem completesWithin_tape {tape : List Move} {s : State} (ht : s.tape = tape) (h : s.Inv) (hb : s.busy = true)
    (hnoreset : ∀ asserted, Move.resetInput asserted ∉ tape) : s.CompletesWithin (tape.length + 1) := by
  induction tape generalizing s with
  | nil => exact completesWithin_one h ⟨hb, h.noReset_of_busy hb, .inl ht⟩
  | cons m rest ih =>
    have host (hm : m.isHost = true) : s.CompletesWithin (rest.length + 1 + 1) := by
      obtain ⟨t, hstep, htape⟩ := step_host_next h.layout ht hm
      have hinv : t.Inv := stepKeepsInvariant s t h hstep
      have spared : SparesCommand s t := step_host_spares_command hb ht hm hstep
      have hbusy : t.busy = true := by rw [spared]; exact hb
      have hcur : t.cur = s.cur := by rw [spared]
      rcases htape with hrest | hcore
      · exact (ih hrest hinv hbusy fun a ha => hnoreset a (List.mem_cons_of_mem m ha)).of_step hstep hcur
      · have now : t.completesNow := ⟨hbusy, hinv.noReset_of_busy hbusy, .inr ⟨_, hcore⟩⟩
        exact ((completesWithin_one hinv now).of_step hstep hcur).mono (by omega)
    cases m with
    | core => exact (completesWithin_one h ⟨hb, h.noReset_of_busy hb, .inr ⟨rest, ht⟩⟩).mono (by omega)
    | resetInput a => exact absurd List.mem_cons_self (hnoreset a)
    | _ => exact host rfl

/-- Settles O49, by induction on the moves to come. -/
theorem startedCommandCompletes : Obligations.StartedCommandCompletes :=
  fun _ h hb hnoreset => completesWithin_tape rfl h hb hnoreset

end Sys2Proof.Machine
end

section
/-! PROOFS. The outcomes of the commands (spec/60_exceptions.md): the numbers and classes of the result codes (R270), the codes each command can give (R273), that no outcome stops the machine (R277), and the interrupt (R279). -/

namespace Sys2Proof.Machine

/-- Settles O57: the numbers and classes are read off the two tables. -/
theorem resultCodesAndClasses : Obligations.ResultCodesAndClasses := rfl

/-! The codes a command gives (R273). -/

/-- The commit of `f` gives one of `codes`; a flow that stands in `noVariant` commits nothing. -/
def Flow.GivesOnly (codes : List ResultCode) : Flow → Prop
  | .goOn _ => .ok ∈ codes
  | .ended c _ => c ∈ codes
  | .noVariant => True

theorem Flow.GivesOnly.mono {codes codes' : List ResultCode} {f : Flow} (h : f.GivesOnly codes)
    (hsub : codes ⊆ codes') : f.GivesOnly codes' := by
  cases f with
  | goOn r => exact hsub h
  | ended c r => exact hsub h
  | noVariant => trivial

theorem Flow.GivesOnly.andThen {codes : List ResultCode} {f : Flow} {body : Results → Flow} (hf : f.GivesOnly codes)
    (hb : ∀ r, (body r).GivesOnly codes) : (f.andThen body).GivesOnly codes := by
  cases f with
  | goOn r => exact hb r
  | ended c r => exact hf
  | noVariant => trivial

theorem Flow.GivesOnly.finish_result {codes : List ResultCode} {s t : State} {f : Flow} (hf : f.GivesOnly codes)
    (h : finish s f = .next t) : t.result ∈ codes := by
  cases f with
  | goOn r => cases h; exact hf
  | ended c r => cases h; exact hf
  | noVariant => cases h

/-- The interlock adds SEQUENCE_ERROR to the codes of a step command's body (R246). -/
theorem interlock_givesOnly {codes : List ResultCode} {need : Stage} {body : Results → Flow} {r : Results}
    (hb : (body r).GivesOnly codes) : (interlock need body r).GivesOnly (codes ++ [.sequenceError]) := by
  by_cases h : r.stage = need
  · rw [interlock_pass h]; exact hb.mono (List.subset_append_left _ _)
  · rw [interlock_fail h]; exact List.mem_append_right _ (List.mem_singleton_self _)

theorem bodySync_givesOnly (s : State) : (bodySync s).GivesOnly [.ok, .notFound, .badRowlen] := by
  rcases bodySync_cases s with ⟨-, h⟩ | ⟨-, -, h⟩ | ⟨-, p, -, h⟩ <;> rw [h] <;> simp [Flow.GivesOnly]

theorem bodyExtract_givesOnly (s : State) (r : Results) : (bodyExtract s r).GivesOnly [.ok, .insufficientLength] := by
  rcases bodyExtract_cases s r with ⟨-, h⟩ | ⟨-, h⟩ <;> rw [h] <;> simp [Flow.GivesOnly]

theorem bodyVerify_givesOnly (s : State) (r : Results) :
    (bodyVerify s r).GivesOnly [.ok, .crcMismatch, .checksumMismatch] := by
  rcases bodyVerify_cases s r with ⟨-, h⟩ | ⟨-, -, h⟩ | ⟨-, h⟩ <;> rw [h] <;> simp [Flow.GivesOnly]

theorem bodyDispatch_givesOnly (s : State) (r : Results) :
    (bodyDispatch s r).GivesOnly [.ok, .unknownFamily, .unknownType] := by
  rcases bodyDispatch_cases s r with ⟨-, h⟩ | ⟨-, -, h⟩ | ⟨-, v, -, h⟩ <;> rw [h] <;> simp [Flow.GivesOnly]

theorem bodyFields_givesOnly (s : State) (r : Results) :
    (bodyFields s r).GivesOnly [.ok, .channelRange, .moistureRange] := by
  cases hv : r.var with
  | none => rw [bodyFields_noVariant s hv]; trivial
  | some v =>
    rcases bodyFields_cases s hv with ⟨-, h⟩ | ⟨-, -, h⟩ | ⟨-, m, -, h⟩ <;> rw [h] <;> simp [Flow.GivesOnly]

/-- The codes of DECODE: those of the five bodies, and no SEQUENCE_ERROR, since it checks no STAGE (R243). -/
def pipelineCodes : List ResultCode :=
  [.ok, .notFound, .insufficientLength, .crcMismatch, .checksumMismatch, .unknownFamily, .unknownType, .channelRange,
    .moistureRange, .badRowlen]

theorem pipeline_givesOnly (s : State) : (pipeline s).GivesOnly pipelineCodes := by
  have sync := (bodySync_givesOnly s).mono (codes' := pipelineCodes) (by decide)
  have extract r := (bodyExtract_givesOnly s r).mono (codes' := pipelineCodes) (by decide)
  have verify r := (bodyVerify_givesOnly s r).mono (codes' := pipelineCodes) (by decide)
  have dispatch r := (bodyDispatch_givesOnly s r).mono (codes' := pipelineCodes) (by decide)
  have fields r := (bodyFields_givesOnly s r).mono (codes' := pipelineCodes) (by decide)
  exact (((sync.andThen extract).andThen verify).andThen dispatch).andThen fields

/-- The table of R273: the codes that the completion of each command code gives. -/
def listedCodes (code : Nibble) : List ResultCode :=
  match code.toNat with
  | 0 => [.ok]
  | 1 => pipelineCodes
  | 2 => [.ok, .notFound, .badRowlen]
  | 3 => [.ok, .insufficientLength, .sequenceError]
  | 4 => [.ok, .crcMismatch, .checksumMismatch, .sequenceError]
  | 5 => [.ok, .unknownFamily, .unknownType, .sequenceError]
  | 6 => [.ok, .channelRange, .moistureRange, .sequenceError]
  | 7 => [.ok]
  | _ => [.illegalCommand]

theorem listedCodes_reserved {code : Nibble} (h : 8 ≤ code.toNat) : listedCodes code = [.illegalCommand] := by
  revert code
  decide

theorem commandFlow_givesOnly (s : State) : (commandFlow s).GivesOnly (listedCodes s.cur) := by
  unfold commandFlow listedCodes
  generalize s.cur.toNat = k
  match k with
  | 0 => exact List.mem_singleton_self _
  | 1 => exact pipeline_givesOnly s
  | 2 => exact bodySync_givesOnly s
  | 3 => exact interlock_givesOnly (bodyExtract_givesOnly s s.res)
  | 4 => exact interlock_givesOnly (bodyVerify_givesOnly s s.res)
  | 5 => exact interlock_givesOnly (bodyDispatch_givesOnly s s.res)
  | 6 => exact interlock_givesOnly (bodyFields_givesOnly s s.res)
  | 7 => exact List.mem_singleton_self _
  | k + 8 => exact List.mem_singleton_self _

theorem completeCommand_result {s t : State} (h : completeCommand s = .next t) : t.result ∈ listedCodes s.cur :=
  (commandFlow_givesOnly s).finish_result ((completeCommand_eq_finish s).symm.trans h)

/-- Settles O25: a completion gives a listed code of the running command, and the list of each code is its row of R273. -/
theorem completionsGiveOnlyTheirCodes : Obligations.CompletionsGiveOnlyTheirCodes := by
  intro s t now h
  rw [step_completesNow (step_cases h).1 now] at h
  have listed : t.result ∈ listedCodes s.cur := completeCommand_result (s := s.setTape s.tape.tail) h
  have row {code : Nibble} (hc : s.cur = code) : t.result ∈ listedCodes code := hc ▸ listed
  refine ⟨fun hc => List.mem_singleton.1 (row hc), row, row, row, row, row, row,
    fun hc => List.mem_singleton.1 (row hc), fun hc => ?_⟩
  rw [listedCodes_reserved hc] at listed
  exact List.mem_singleton.1 listed

/-! Every outcome is a next state (R277). -/

/-- From sound registers the running command always completes: FIELDS then has a variant (R181). -/
theorem completeCommand_of_sound {s : State} (h : ResultsSound s s.res) : ∃ t, completeCommand s = .next t := by
  obtain ⟨c, r, -, hcommit⟩ := (commandFlow_sound h).finish_commits
  exact ⟨_, (completeCommand_eq_finish s).trans (hcommit _)⟩

theorem coreMove_next {s : State} (h : s.Inv) : ∃ t, coreMove s = .next t := by
  unfold coreMove
  split
  · exact completeCommand_of_sound h.resultsSound
  · exact ⟨s, rfl⟩

/-- A step with no move left is the core's (R241, R284). -/
theorem step_noMove {s : State} (hl : layoutWf s.layout = true) (ht : s.tape = []) : step s = coreMove s := by
  simp [step, hl, nextMove, ht]

theorem step_core {s : State} {rest : List Move} (hl : layoutWf s.layout = true) (ht : s.tape = .core :: rest) :
    step s = coreMove (s.setTape rest) := by
  simp [step, hl, nextMove, ht, runMove]

theorem step_resetInput {s : State} {asserted : Bool} {rest : List Move} (hl : layoutWf s.layout = true)
    (ht : s.tape = .resetInput asserted :: rest) : step s = .next (resetMove asserted (s.setTape rest)) := by
  simp [step, hl, nextMove, ht, runMove]

/-- Settles O48: by the next move; only the core's can be refused, and the invariant rules that out. -/
theorem invariantStateAlwaysSteps : Obligations.InvariantStateAlwaysSteps := by
  intro s h
  have host {m : Move} {rest : List Move} (ht : s.tape = m :: rest) (hm : m.isHost = true) : ∃ t, step s = .next t :=
    (step_host_next h.layout ht hm).imp fun _ ht => ht.1
  cases ht : s.tape with
  | nil => exact step_noMove h.layout ht ▸ coreMove_next h
  | cons m rest =>
    cases m with
    | core => exact step_core h.layout ht ▸ coreMove_next (inv_setTape h rest)
    | resetInput asserted => exact ⟨_, step_resetInput h.layout ht⟩
    | _ => exact host ht rfl

/-! The interrupt (R279). -/

theorem irq_of_not_done {s : State} (h : s.done = false) : irq s = false := by
  simp [irq, h]

theorem irq_of_masked {s : State} (h : s.ctrl.ie = false) : irq s = false := by
  simp [irq, h]

/-- A CTRL write with GO while idle starts a command, which clears DONE (R240). -/
theorem exec_go_idle_done {i : Instr} {s t : State} (hgo : (encode i).getLsbD 4 = true) (hidle : s.busy = false)
    (h : exec i s = .next t) : t.done = false := by
  rcases exec_cases i s with ⟨c, ie, vb, -, -, he⟩ | ⟨hb, -⟩ | ⟨c, ie, vb, -, hngo, -⟩ | ⟨c, ie, vb, hngo, -⟩
  · rw [he] at h; cases h; rfl
  · cases hb.symm.trans hidle
  · cases hgo.symm.trans hngo
  · cases hgo.symm.trans hngo

/-- Settles O42: ACK, GO and reset leave DONE = 0, and SETCTRL leaves DONE as it is beside the stored IE. -/
theorem interruptIsDoneAndEnable : Obligations.InterruptIsDoneAndEnable := by
  intro s
  obtain ⟨-, -, -, hirq, -⟩ := statusWord_bits s
  refine ⟨rfl, hirq, irq_of_masked, fun cmd ie vb t hidle h => ?_,
    fun i t hidle hgo h => irq_of_not_done (exec_go_idle_done hgo hidle h),
    fun cmd vb t hdone h => (setctrlStoresItsFields s cmd true vb).2 hdone rfl t h, fun rest t ht h => ?_⟩
  · rw [exec_ack_idle hidle] at h
    cases h
    exact irq_of_not_done rfl
  · rw [step_resetInput (step_cases h).1 ht] at h
    cases h
    exact irq_of_not_done rfl

end Sys2Proof.Machine
end

section
/-! PROOFS. Reset and hazards (spec/70_reset_and_hazards.md): the reset input (R300), what changes a byte of BUF (R301), host moves beside a running command (R305), and an input write between the step commands (R306). -/

namespace Sys2Proof.Machine

/-! The reset input (R300). -/

theorem resetMove_asserted (s : State) : resetMove true s = s.toResetValues.setReset true := rfl

theorem resetMove_deasserted {s : State} (h : s.inReset = true) :
    resetMove false s = s.toResetValues.setReset false := by
  simp [resetMove, h]

theorem memRead_inReset {s : State} (h : s.inReset = true) (addr : Word) : memRead s addr = 0 := by
  simp [memRead, h]

theorem memWrite_inReset {s : State} (h : s.inReset = true) (addr v : Word) : memWrite addr v s = .next s := by
  simp [memWrite, h]

theorem coreMove_inReset {s : State} (h : s.inReset = true) : coreMove s = .next s := by
  simp [coreMove, h]

/-- Settles O43: the two edges of the input put every register to its reset value, and in reset a write, a read and the
core's move do nothing. -/
theorem resetInputHoldsResetValues : Obligations.ResetInputHoldsResetValues := by
  intro s rest hl
  refine ⟨fun ht => ?_, fun hr ht => ?_, fun addr v hr ht => ?_, fun addr hr ht => ?_, fun addr hr => ?_,
    fun hr ht => ?_⟩
  · rw [step_resetInput hl ht, resetMove_asserted]; rfl
  · rw [step_resetInput hl ht, resetMove_deasserted (s := s.setTape rest) hr]; rfl
  · rw [step_write hl ht, memWrite_inReset (s := s.setTape rest) hr]; rfl
  · rw [step_read hl ht, memRead_inReset hr]; rfl
  · exact memRead_inReset hr addr
  · rw [step_core hl ht, coreMove_inReset (s := s.setTape rest) hr]; rfl

/-! What changes a byte of BUF (R301). -/

/-- BUF's bytes stay as they are: BUF and the power-up draw are `s`'s. -/
def KeepsBuf (s t : State) : Prop :=
  t.buf = s.buf ∧ t.powerUp = s.powerUp

theorem KeepsBuf.refl (s : State) : KeepsBuf s s := ⟨rfl, rfl⟩

theorem KeepsBuf.bufByte_eq {s t : State} (h : KeepsBuf s t) (b : Nat) : bufByte t b = bufByte s b :=
  congrFun (bufByte_congr h.1 h.2) b

theorem completeCommand_keepsBuf {s t : State} (h : completeCommand s = .next t) : KeepsBuf s t := by
  obtain ⟨c, r, rfl | ⟨-, rfl⟩⟩ := completeCommand_next h <;> exact .refl s

theorem resetMove_keepsBuf (asserted : Bool) (s : State) : KeepsBuf s (resetMove asserted s) := by
  unfold resetMove
  split <;> exact .refl s

theorem exec_keepsBuf {i : Instr} {s t : State} (h : exec i s = .next t) : KeepsBuf s t := by
  rw [exec_frame h]; exact .refl s

theorem inputWrite_keepsBuf {store : State → State} {s : State} (h : KeepsBuf s (store s)) :
    KeepsBuf s (inputWrite store s) := by
  unfold inputWrite
  split
  · exact .refl s
  · exact h

/-- Every step keeps BUF, unless it stores a BUF word while idle (R80, R301). -/
theorem step_keepsBuf_or_stores {s t : State} (h : step s = .next t) :
    KeepsBuf s t ∨ ∃ w v, s.writesNow (256 + w) v ∧ w < bufWords s.layout ∧ s.busy = false ∧
      t = (s.setTape s.tape.tail).storeBufWord w v := by
  obtain ⟨-, ⟨-, hc⟩ | ⟨a, rest, -, rfl⟩ | ⟨v, -, hx⟩ | ⟨v, -, rfl⟩ | ⟨w, v, now, hw, rfl⟩ | ⟨hq, -⟩⟩ := step_cases h
  · exact .inl (completeCommand_keepsBuf (s := s.setTape s.tape.tail) hc)
  · exact .inl (resetMove_keepsBuf a (s.setTape rest))
  · exact .inl (exec_keepsBuf (s := s.setTape s.tape.tail) hx)
  · exact .inl (inputWrite_keepsBuf (s := s.setTape s.tape.tail) ⟨rfl, rfl⟩)
  · cases hb : s.busy with
    | true => rw [inputWrite_busy (s := s.setTape s.tape.tail) hb]; exact .inl ⟨rfl, rfl⟩
    | false =>
      exact .inr ⟨w, v, now, hw, rfl, inputWrite_idle (s := s.setTape s.tape.tail) hb _⟩
  · rw [hq]; exact .inl ⟨rfl, rfl⟩

/-- Settles O45: the one step that does not keep BUF stores a word, and it changes no byte outside that word. -/
theorem bufBytesChangeOnlyByInputWrites : Obligations.BufBytesChangeOnlyByInputWrites := by
  refine ⟨fun _ _ => bufByte_unwritten, fun s t b h hne => ?_, fun s t h => ?_⟩
  · rcases step_keepsBuf_or_stores h with keeps | ⟨w, v, now, hw, hidle, rfl⟩
    · exact absurd (keeps.bufByte_eq b) hne
    · have hword : b / 4 = w := by
        by_contra hb
        exact hne ((bufByte_storeBufWord _ w b v).trans (if_neg hb))
      exact ⟨hidle, hword ▸ hw, v, hword ▸ now⟩
  · rcases step_keepsBuf_or_stores h with keeps | ⟨w, v, -, -, -, rfl⟩
    · exact keeps.2
    · rfl

/-! Host moves beside a running command (R305). -/

/-- What the running command's pseudocode reads: LAYOUT, CUR, the result registers, LEN and the bits below LEN (R241). -/
theorem commandFlow_congr {s s' : State} (hlay : s.layout = s'.layout) (hcur : s.cur = s'.cur) (hres : s.res = s'.res)
    (hlen : s.rowLen = s'.rowLen) (hbits : ∀ i, i < s.rowLen.toNat → bufBit s i = bufBit s' i) :
    commandFlow s = commandFlow s' := by
  have sync : bodySync s = bodySync s' := bodySync_congr hlay hlen hbits
  have extract : bodyExtract s = bodyExtract s' := funext (bodyExtract_congr hlay hlen hbits)
  have verify : bodyVerify s = bodyVerify s' := by funext r; simp only [bodyVerify, hlay]
  have dispatch : bodyDispatch s = bodyDispatch s' := by funext r; simp only [bodyDispatch, hlay]
  have fields : bodyFields s = bodyFields s' := by funext r; simp only [bodyFields, hlay]
  have clear : clearFrameState s = clearFrameState s' := by simp only [clearFrameState, hlay]
  simp only [commandFlow, hcur, hres, pipeline_congr hlay hlen hbits, sync, extract, verify, dispatch, fields, clear]

theorem SparesCommand.commandFlow_eq {s t : State} (h : SparesCommand s t) : commandFlow s = commandFlow t := by
  rw [h]
  exact commandFlow_congr rfl rfl rfl rfl fun _ _ => rfl

theorem SparesCommand.clearOvr {s t : State} (h : SparesCommand s t) : SparesCommand s.clearOvr t.clearOvr :=
  congrArg State.clearOvr h

theorem SparesCommand.commit {s t : State} (h : SparesCommand s t) (c : ResultCode) (r : Results) :
    SparesCommand (s.commit c r) (t.commit c r) :=
  congrArg (State.commit c r) h

theorem finish_spared {s t u v : State} {f : Flow} (h : SparesCommand s t) (hv : finish s f = .next v)
    (hu : finish t f = .next u) : SparesCommand v u := by
  cases f with
  | goOn r => cases hv; cases hu; exact h.commit .ok r
  | ended c r => cases hv; cases hu; exact h.commit c r
  | noVariant => cases hv

/-- After a step that spares the command, its completion differs in CTRL, OVR and the model's own fields at most. -/
theorem completeCommand_spared {s t u v : State} (h : SparesCommand s t) (hv : completeCommand s = .next v)
    (hu : completeCommand t = .next u) : SparesCommand v u := by
  have hcur : t.cur = s.cur := by rw [h]
  rw [completeCommand_eq_finish] at hv hu
  rw [← h.commandFlow_eq, hcur] at hu
  split at hv
  · next h7 => rw [if_pos h7] at hu; exact finish_spared h.clearOvr hv hu
  · next h7 => rw [if_neg h7] at hu; exact finish_spared h hv hu

/-- Settles O39: the host move spares the command, and so the completions with and without it agree. -/
theorem hostMovesDoNotAffectTheCommandInFlight : Obligations.HostMovesDoNotAffectTheCommandInFlight := by
  intro s t u v m hb hr hm _ hhost hu hv
  have spared : SparesCommand { s with tape := [m, .core] } t := step_host_spares_command hb rfl hm hhost
  have spared' : SparesCommand (s.setTape []) (t.setTape []) := congrArg (State.setTape []) spared
  have hbt : t.busy = true := by rw [spared]; exact hb
  have hrt : t.inReset = false := by rw [spared]; exact hr
  rw [step_completesNow (step_cases hu).1 ⟨hbt, hrt, .inr ⟨[], rfl⟩⟩] at hu
  rw [step_completesNow (step_cases hv).1 ⟨hb, hr, .inr ⟨[], rfl⟩⟩] at hv
  have agree : SparesCommand v u := completeCommand_spared spared' hv hu
  rw [agree]
  exact ⟨rfl, rfl, rfl, rfl, rfl, rfl⟩

/-! An input write between the step commands (R306). -/

/-- An input write of a ready block leaves it ready, at STAGE = 0 (R80). -/
theorem step_inputWrite_ready {s : State} {v : Word} {k : Nat} (h : ReadyForGo s) (now : s.writesNow k v)
    (reach : k = 2 ∨ (256 ≤ k ∧ k - 256 < s.layout.capBits / 32)) :
    ∃ t, step s = .next t ∧ ReadyForGo t ∧ t.res.stage = .none := by
  obtain ⟨hr, addr, rest, ht, hk⟩ := now
  rcases reach with rfl | ⟨hge, hlt⟩
  · refine ⟨_, step_rowLenWrite h.layout hr ht hk, ?_⟩
    rw [inputWrite_idle (s := s.setTape rest) h.idle]
    exact ⟨⟨h.layout, hr, h.idle⟩, rfl⟩
  · refine ⟨_, step_bufWrite h.layout hr ht (w := k - 256) (hk.trans (by omega)) hlt, ?_⟩
    rw [inputWrite_idle (s := s.setTape rest) h.idle]
    exact ⟨⟨h.layout, hr, h.idle⟩, rfl⟩

/-- `RUN` of a step command at another STAGE than the one it needs: SEQUENCE_ERROR, and the registers as they were
(R246). -/
theorem runOne_wrongStage {i : Instr} {code : Nibble} {ie vb : Bool} {s : State} {need : Stage}
    {body : Results → Flow} (h : ReadyForGo s) (hstage : s.res.stage ≠ need)
    (hi : exec i s = startCommand code ie vb s)
    (hc : completeCommand (s.start code ie vb) = finish (s.start code ie vb) (interlock need body s.res)) :
    ∃ u, runOne i s = some u ∧ u.result = .sequenceError ∧ u.cls = .hostError ∧ u.res = s.res := by
  rw [interlock_fail hstage] at hc
  exact ⟨_, runOne_eq_ranTo h hi hc, rfl, rfl, rfl⟩

/-- Settles O40: the input write leaves STAGE = 0, which none of the four step commands accepts. -/
theorem inputWriteVoidsTheChain : Obligations.InputWriteVoidsTheChain := by
  intro s v k h now reach
  obtain ⟨t, hstep, hready, hstage⟩ := step_inputWrite_ready h now reach
  have wrong {need : Stage} (hneed : need ≠ .none) : t.res.stage ≠ need := by rw [hstage]; exact hneed.symm
  refine ⟨t, hstep, hstage, ?_⟩
  simp only [List.forall_mem_cons, List.not_mem_nil, false_implies, implies_true, and_true]
  exact ⟨runOne_wrongStage hready (wrong (by decide)) rfl (completeCommand_start_extract ..),
    runOne_wrongStage hready (wrong (by decide)) rfl (completeCommand_start_verify ..),
    runOne_wrongStage hready (wrong (by decide)) rfl (completeCommand_start_dispatch ..),
    runOne_wrongStage hready (wrong (by decide)) rfl (completeCommand_start_fields ..)⟩

end Sys2Proof.Machine
end
